-- ==== Sys2Proof/Word.lean ====
section
/-! DEFINITION. The words of the block: bytes, u16 values, connection ids and IPv4 addresses (00_scope.md R12, R14). -/

namespace Sys2Proof

/-- A byte: 8 bits unsigned (00 R14). -/
abbrev Byte := BitVec 8

/-- A u16: 16 bits unsigned (00 R14). -/
abbrev Half := BitVec 16

/-- A connection id, 0..15: NCID is 16 (00 R12, R16). -/
abbrev Cid := Fin 16

/-- An IPv4 address: an opaque value of 4 octets, first dotted group first (00 R6 (d)). -/
structure IPv4 where
  o1 : Byte
  o2 : Byte
  o3 : Byte
  o4 : Byte
deriving DecidableEq, Repr

/-- The address 0.0.0.0. -/
def IPv4.zero : IPv4 := ⟨0, 0, 0, 0⟩

/-- The four octets in dotted order. -/
def IPv4.octets (a : IPv4) : List Byte := [a.o1, a.o2, a.o3, a.o4]

/-- The bytes of an ASCII string given by its character codes. -/
def bytesOf (codes : List Nat) : List Byte := codes.map (BitVec.ofNat 8)

end Sys2Proof
end

