-- ==== Sys2Proof/Syntax.lean ====
section
/-! DEFINITION. The operations of the block, one constructor per row of spec/opcode_table.json: 22 host operations
(30_encoding.md R119) and 26 micro-operations (R120). A host operand is kept as the raw byte of the operation word,
because its range is checked by the gate (46_host_ops.md R464 step 5), after the lifecycle. -/

namespace Sys2Proof

/-- A frame-header record (10_state.md R41, 00 R16). -/
structure FrameHeader where
  cid : Cid
  length : Half
  udp : Bool
  ip : IPv4
  port : Half
deriving DecidableEq, Repr

/-- The record with every field 0 (70 R521). -/
def FrameHeader.zero : FrameHeader := ⟨0, 0, false, IPv4.zero, 0⟩

/-- The address of a connectionless send (46 R442: none, or `(ip, port)`). -/
structure NetAddr where
  ip : IPv4
  port : Half
deriving DecidableEq, Repr

/-- The destination width of PARSE_INT: 8, 16 or 32 bits (45 R390). -/
inductive IntWidth where
  | w8
  | w16
  | w32
deriving DecidableEq, Repr

/-- A form of FORMAT_FIELDS with the value it formats (45 R395). -/
inductive FormatArg where
  | hexU (v : Cid)
  | dec4 (v : Half)
  | decN (v : Half)
  | dotted (ip : IPv4)
  | rxHeader (h : FrameHeader)
  | txHeader (cid : Cid) (len : Half)
  | txAddr (cid : Cid) (ip : IPv4) (port : Half) (len : Half)
deriving DecidableEq, Repr

/-- The operations of spec/opcode_table.json, in its order. -/
inductive Instr where
  -- lifecycle, service and status (30 R119)
  | start (mode : Byte)
  | startDone (ok : Byte)
  | stop
  | service
  | poll
  | status
  -- read side
  | peek (cid : Byte)
  | read (cid : Byte)
  | readAny
  | readBuf (cid : Byte) (n : Half)
  | firstCid
  | available (cid : Byte)
  | availableAny
  -- write side: the `len` operand is the length of the data
  | write (cid : Byte) (data : List Byte)
  | writeTo (cid : Byte) (ip : IPv4) (port : Half) (data : List Byte)
  -- commands
  | sendCommand (text : List Byte)
  | readResponse (rmode : Byte) (n : Half)
  | sendCommandExpectOk (text : List Byte)
  -- connection and association state
  | connQuery (cid : Byte)
  | connSet (cid : Byte) (ip : IPv4) (rport : Half) (lport : Half) (ssl : Byte)
  | assocQuery
  | assocSet
  -- micro-operations (30 R120)
  | codecSend (b : Byte)
  | codecRecv
  | rxProcess (b : Byte)
  | pushHeader (h : FrameHeader)
  | pushByte (b : Byte)
  | popHeader
  | peekByte
  | popByte
  | availableBytes
  | dropOldest (n : Byte)
  | advance
  | classifyLine (line : List Byte)
  | respStep (c : Byte)
  | asyncDispatch (subtype : Cid) (body : List Byte)
  | connConnect (cid : Cid) (ip : IPv4) (rport : Half) (lport : Half) (ssl : Bool)
  | connDisconnect (cid : Cid)
  | connFail (cid : Cid)
  | disassocCascade
  | assocUpdate
  | ncmConnect (cid : Cid)
  | takeEvents
  | parseInt (base : Byte) (width : IntWidth) (chars : List Byte)
  | parseIp (chars : List Byte)
  | formatFields (form : FormatArg)
  | writeFrame (cid : Cid) (addr : Option NetAddr) (data : List Byte)
  | waitDataResp
deriving DecidableEq, Repr

end Sys2Proof
end

