-- ==== Sys2Proof/WellFormed.lean ====
section
/-! DEFINITION. Which operations an operation word can carry: a byte-string operand must be shorter than 65536 bytes,
because its length is given by a u16 `len` operand (30_encoding.md R117, R119). Every other operand fits its field by
its type. -/

namespace Sys2Proof

/-- A byte string whose length fits the u16 `len` operand before it (30 R117). -/
def fitsHalf (data : List Byte) : Bool := decide (data.length < 65536)

/-- The operation can be written as an operation word. -/
def Instr.wellFormed : Instr → Bool
  | .start _ => true
  | .startDone _ => true
  | .stop => true
  | .service => true
  | .poll => true
  | .status => true
  | .peek _ => true
  | .read _ => true
  | .readAny => true
  | .readBuf _ _ => true
  | .firstCid => true
  | .available _ => true
  | .availableAny => true
  | .write _ data => fitsHalf data
  | .writeTo _ _ _ data => fitsHalf data
  | .sendCommand text => fitsHalf text
  | .readResponse _ _ => true
  | .sendCommandExpectOk text => fitsHalf text
  | .connQuery _ => true
  | .connSet _ _ _ _ _ => true
  | .assocQuery => true
  | .assocSet => true
  | .codecSend _ => true
  | .codecRecv => true
  | .rxProcess _ => true
  | .pushHeader _ => true
  | .pushByte _ => true
  | .popHeader => true
  | .peekByte => true
  | .popByte => true
  | .availableBytes => true
  | .dropOldest _ => true
  | .advance => true
  | .classifyLine line => fitsHalf line
  | .respStep _ => true
  | .asyncDispatch _ body => fitsHalf body
  | .connConnect _ _ _ _ _ => true
  | .connDisconnect _ => true
  | .connFail _ => true
  | .disassocCascade => true
  | .assocUpdate => true
  | .ncmConnect _ => true
  | .takeEvents => true
  | .parseInt _ _ chars => fitsHalf chars
  | .parseIp chars => fitsHalf chars
  | .formatFields _ => true
  | .writeFrame _ _ data => fitsHalf data
  | .waitDataResp => true

end Sys2Proof
end

