-- ==== Sys2Proof/Decode.lean ====
section
/-! DEFINITION. The operation words (30_encoding.md R117 to R120): the decoder, total on any bytes and rejecting by name,
and the encoder. Byte 0 is the opcode; the operands follow in the order of R119 (host) or R120 (micro); a u16 is two
bytes, least significant first; an address is four bytes in dotted order; a byte string follows its u16 length.
The spec gives a MICRO row a code and no operand layout: the same conventions are used (DESIGN CHOICE, log 8). -/

namespace Sys2Proof

/-- Where an operation word is presented: the host port takes the opcodes of 30 R119; the micro port, the model's own,
takes the codes of R120, which the host port refuses (log 8). -/
inductive PortKind where
  | host
  | micro
deriving DecidableEq, Repr

/-- Why bytes are no operation word. -/
inductive DecodeError where
  /-- no byte at all -/
  | emptyWord
  /-- a code that 30 R119 (host port) or R120 (micro port) does not list -/
  | illegalOpcode
  /-- the operand bytes end before the operand does (log 9) -/
  | truncated
  /-- bytes are left after the last operand (log 9) -/
  | trailing
  /-- a micro operand with no value of its type (log 9) -/
  | badMicroOperand
deriving DecidableEq, Repr

/-! ## Operand fields -/

/-- What reading an operand off the front of the bytes answers: its value and the bytes after it, or why not. -/
abbrev Parsed (α : Type) := Except DecodeError (α × List Byte)

/-- Read the next operand from the bytes that are left. -/
def Parsed.andThen {α β : Type} (p : Parsed α) (k : α → List Byte → Parsed β) : Parsed β :=
  match p with
  | .ok (a, rest) => k a rest
  | .error e => .error e

/-- A u16 from its two bytes, least significant first (30 R117). -/
def halfOf (lo hi : Byte) : Half := hi ++ lo

/-- The low byte of a u16. -/
def lowByte (h : Half) : Byte := h.extractLsb' 0 8

/-- The high byte of a u16. -/
def highByte (h : Half) : Byte := h.extractLsb' 8 8

/-- The two bytes of a u16, least significant first (30 R117). -/
def halfBytes (h : Half) : List Byte := [lowByte h, highByte h]

/-- One raw byte. -/
def getByte : List Byte → Parsed Byte
  | b :: rest => .ok (b, rest)
  | [] => .error .truncated

/-- A u16. -/
def getHalf : List Byte → Parsed Half
  | lo :: hi :: rest => .ok (halfOf lo hi, rest)
  | _ => .error .truncated

/-- An IPv4 address. -/
def getIp : List Byte → Parsed IPv4
  | a :: b :: c :: d :: rest => .ok (⟨a, b, c, d⟩, rest)
  | _ => .error .truncated

/-- A byte string behind its u16 length. -/
def getData (bs : List Byte) : Parsed (List Byte) :=
  (getHalf bs).andThen fun n bs =>
  if n.toNat ≤ bs.length then .ok (bs.take n.toNat, bs.drop n.toNat) else .error .truncated

/-- A micro operand of 4 bits: a CID or a subtype, in one byte (log 8). -/
def getCid : List Byte → Parsed Cid
  | b :: rest => if b.toNat < 16 then .ok (Fin.ofNat 16 b.toNat, rest) else .error .badMicroOperand
  | [] => .error .truncated

/-- A micro operand of one bit, in one byte (log 8). -/
def getFlag : List Byte → Parsed Bool
  | b :: rest =>
    if b = 0 then .ok (false, rest) else if b = 1 then .ok (true, rest) else .error .badMicroOperand
  | [] => .error .truncated

/-- The destination width of PARSE_INT (45 R390), as a code in one byte: 0, 1 and 2 stand for 8, 16 and 32 bits, and other
bytes for none (DESIGN CHOICE, log 8). -/
def getWidth : List Byte → Parsed IntWidth
  | b :: rest =>
    if b = 0 then .ok (.w8, rest) else if b = 1 then .ok (.w16, rest)
    else if b = 2 then .ok (.w32, rest) else .error .badMicroOperand
  | [] => .error .truncated

/-- A frame-header operand, its fields in the order of 10 R41 (DESIGN CHOICE, log 8). -/
def getHeader (bs : List Byte) : Parsed FrameHeader :=
  (getCid bs).andThen fun cid bs =>
  (getHalf bs).andThen fun length bs =>
  (getFlag bs).andThen fun udp bs =>
  (getIp bs).andThen fun ip bs =>
  (getHalf bs).andThen fun port bs =>
  .ok (⟨cid, length, udp, ip, port⟩, bs)

/-- The optional address of WRITE_FRAME: a flag byte, then the address and port if it is 1 (DESIGN CHOICE, log 8). -/
def getAddr (bs : List Byte) : Parsed (Option NetAddr) :=
  (getFlag bs).andThen fun present bs =>
  if present then
    (getIp bs).andThen fun ip bs =>
    (getHalf bs).andThen fun port bs =>
    .ok (some ⟨ip, port⟩, bs)
  else .ok (none, bs)

/-- The form of FORMAT_FIELDS, as a code in one byte, 0 to 6 in the order of the forms of 45 R395, and the value that form
formats. The numbering is the model's; the form stands before the value, because it says how long the value is, where 30
R120 lists them the other way round (DESIGN CHOICE, log 8). -/
def getForm (bs : List Byte) : Parsed FormatArg :=
  (getByte bs).andThen fun form bs =>
  match form.toNat with
  | 0 => (getCid bs).andThen fun v bs => .ok (.hexU v, bs)
  | 1 => (getHalf bs).andThen fun v bs => .ok (.dec4 v, bs)
  | 2 => (getHalf bs).andThen fun v bs => .ok (.decN v, bs)
  | 3 => (getIp bs).andThen fun ip bs => .ok (.dotted ip, bs)
  | 4 => (getHeader bs).andThen fun h bs => .ok (.rxHeader h, bs)
  | 5 => (getCid bs).andThen fun c bs => (getHalf bs).andThen fun n bs => .ok (.txHeader c n, bs)
  | 6 =>
    (getCid bs).andThen fun c bs =>
    (getIp bs).andThen fun ip bs =>
    (getHalf bs).andThen fun port bs =>
    (getHalf bs).andThen fun n bs =>
    .ok (.txAddr c ip port n, bs)
  | _ => .error .badMicroOperand

/-! ## The decoder -/

/-- The operands of a host operation, by its opcode (30 R119). -/
def decodeHost (op : Byte) (bs : List Byte) : Parsed Instr :=
  match op.toNat with
  | 0x01 => (getByte bs).andThen fun m bs => .ok (.start m, bs)
  | 0x02 => (getByte bs).andThen fun k bs => .ok (.startDone k, bs)
  | 0x03 => .ok (.stop, bs)
  | 0x04 => .ok (.service, bs)
  | 0x05 => .ok (.poll, bs)
  | 0x06 => .ok (.status, bs)
  | 0x10 => (getByte bs).andThen fun c bs => .ok (.peek c, bs)
  | 0x11 => (getByte bs).andThen fun c bs => .ok (.read c, bs)
  | 0x12 => .ok (.readAny, bs)
  | 0x13 => (getByte bs).andThen fun c bs => (getHalf bs).andThen fun n bs => .ok (.readBuf c n, bs)
  | 0x14 => .ok (.firstCid, bs)
  | 0x15 => (getByte bs).andThen fun c bs => .ok (.available c, bs)
  | 0x16 => .ok (.availableAny, bs)
  | 0x18 => (getByte bs).andThen fun c bs => (getData bs).andThen fun d bs => .ok (.write c d, bs)
  | 0x19 =>
    (getByte bs).andThen fun c bs =>
    (getIp bs).andThen fun ip bs =>
    (getHalf bs).andThen fun port bs =>
    (getData bs).andThen fun d bs =>
    .ok (.writeTo c ip port d, bs)
  | 0x20 => (getData bs).andThen fun t bs => .ok (.sendCommand t, bs)
  | 0x21 => (getByte bs).andThen fun m bs => (getHalf bs).andThen fun n bs => .ok (.readResponse m n, bs)
  | 0x22 => (getData bs).andThen fun t bs => .ok (.sendCommandExpectOk t, bs)
  | 0x28 => (getByte bs).andThen fun c bs => .ok (.connQuery c, bs)
  | 0x29 =>
    (getByte bs).andThen fun c bs =>
    (getIp bs).andThen fun ip bs =>
    (getHalf bs).andThen fun rport bs =>
    (getHalf bs).andThen fun lport bs =>
    (getByte bs).andThen fun ssl bs =>
    .ok (.connSet c ip rport lport ssl, bs)
  | 0x2A => .ok (.assocQuery, bs)
  | 0x2B => .ok (.assocSet, bs)
  | _ => .error .illegalOpcode

/-- The operands of a micro-operation, by its code (30 R120, log 8). -/
def decodeMicro (op : Byte) (bs : List Byte) : Parsed Instr :=
  match op.toNat with
  | 0x80 => (getByte bs).andThen fun b bs => .ok (.codecSend b, bs)
  | 0x81 => .ok (.codecRecv, bs)
  | 0x82 => (getByte bs).andThen fun b bs => .ok (.rxProcess b, bs)
  | 0x83 => (getHeader bs).andThen fun h bs => .ok (.pushHeader h, bs)
  | 0x84 => (getByte bs).andThen fun b bs => .ok (.pushByte b, bs)
  | 0x85 => .ok (.popHeader, bs)
  | 0x86 => .ok (.peekByte, bs)
  | 0x87 => .ok (.popByte, bs)
  | 0x88 => .ok (.availableBytes, bs)
  | 0x89 => (getByte bs).andThen fun n bs => .ok (.dropOldest n, bs)
  | 0x8A => .ok (.advance, bs)
  | 0x8B => (getData bs).andThen fun l bs => .ok (.classifyLine l, bs)
  | 0x8C => (getByte bs).andThen fun c bs => .ok (.respStep c, bs)
  | 0x8D => (getCid bs).andThen fun s bs => (getData bs).andThen fun d bs => .ok (.asyncDispatch s d, bs)
  | 0x8E =>
    (getCid bs).andThen fun c bs =>
    (getIp bs).andThen fun ip bs =>
    (getHalf bs).andThen fun rport bs =>
    (getHalf bs).andThen fun lport bs =>
    (getFlag bs).andThen fun ssl bs =>
    .ok (.connConnect c ip rport lport ssl, bs)
  | 0x8F => (getCid bs).andThen fun c bs => .ok (.connDisconnect c, bs)
  | 0x90 => (getCid bs).andThen fun c bs => .ok (.connFail c, bs)
  | 0x91 => .ok (.disassocCascade, bs)
  | 0x92 => .ok (.assocUpdate, bs)
  | 0x93 => (getCid bs).andThen fun c bs => .ok (.ncmConnect c, bs)
  | 0x94 => .ok (.takeEvents, bs)
  | 0x95 =>
    (getHalf bs).andThen fun n bs =>
    (getByte bs).andThen fun base bs =>
    (getWidth bs).andThen fun width bs =>
    if n.toNat ≤ bs.length then .ok (.parseInt base width (bs.take n.toNat), bs.drop n.toNat)
    else .error .truncated
  | 0x96 => (getData bs).andThen fun d bs => .ok (.parseIp d, bs)
  | 0x97 => (getForm bs).andThen fun f bs => .ok (.formatFields f, bs)
  | 0x98 =>
    (getCid bs).andThen fun c bs =>
    (getAddr bs).andThen fun a bs =>
    (getData bs).andThen fun d bs =>
    .ok (.writeFrame c a d, bs)
  | 0x99 => .ok (.waitDataResp, bs)
  | _ => .error .illegalOpcode

/-- An operation off the front of the bytes, with the bytes after it. -/
def decodePrefix (port : PortKind) : List Byte → Parsed Instr
  | [] => .error .emptyWord
  | op :: bs =>
    match port with
    | .host => decodeHost op bs
    | .micro => decodeMicro op bs

/-- The operation of a whole word: the operands end where the word ends. -/
def decode (port : PortKind) (word : List Byte) : Except DecodeError Instr :=
  match decodePrefix port word with
  | .error e => .error e
  | .ok (i, []) => .ok i
  | .ok (_, _ :: _) => .error .trailing

/-! ## The encoder -/

/-- A CID or subtype as one byte, high nibble 0 (30 R118). -/
def cidByte (c : Cid) : Byte := BitVec.ofNat 8 c.val

/-- A bit as one byte, 0 or 1. -/
def flagByte (b : Bool) : Byte := if b then 1 else 0

/-- A byte string behind its u16 length (30 R117). -/
def dataBytes (data : List Byte) : List Byte := halfBytes (BitVec.ofNat 16 data.length) ++ data

/-- The fields of a frame-header operand, in the order of 10 R41 (log 8). -/
def headerOperand (h : FrameHeader) : List Byte :=
  cidByte h.cid :: (halfBytes h.length ++ flagByte h.udp :: (h.ip.octets ++ halfBytes h.port))

/-- The code of a PARSE_INT width: 0, 1 and 2 for 8, 16 and 32 bits (DESIGN CHOICE, log 8). -/
def widthByte : IntWidth → Byte
  | .w8 => 0
  | .w16 => 1
  | .w32 => 2

/-- The optional address of WRITE_FRAME (log 8). -/
def addrOperand : Option NetAddr → List Byte
  | none => [0]
  | some a => 1 :: (a.ip.octets ++ halfBytes a.port)

/-- The form and value of FORMAT_FIELDS, in this order (DESIGN CHOICE, log 8). -/
def formOperand : FormatArg → List Byte
  | .hexU v => [0, cidByte v]
  | .dec4 v => 1 :: halfBytes v
  | .decN v => 2 :: halfBytes v
  | .dotted ip => 3 :: ip.octets
  | .rxHeader h => 4 :: headerOperand h
  | .txHeader c n => 5 :: cidByte c :: halfBytes n
  | .txAddr c ip port n => 6 :: cidByte c :: (ip.octets ++ halfBytes port ++ halfBytes n)

/-- The operation word of an operation (30 R117, R119; log 8 for the micro-operations). -/
def encode : Instr → List Byte
  | .start m => [0x01, m]
  | .startDone k => [0x02, k]
  | .stop => [0x03]
  | .service => [0x04]
  | .poll => [0x05]
  | .status => [0x06]
  | .peek c => [0x10, c]
  | .read c => [0x11, c]
  | .readAny => [0x12]
  | .readBuf c n => 0x13 :: c :: halfBytes n
  | .firstCid => [0x14]
  | .available c => [0x15, c]
  | .availableAny => [0x16]
  | .write c d => 0x18 :: c :: dataBytes d
  | .writeTo c ip port d => 0x19 :: c :: (ip.octets ++ halfBytes port ++ dataBytes d)
  | .sendCommand t => 0x20 :: dataBytes t
  | .readResponse m n => 0x21 :: m :: halfBytes n
  | .sendCommandExpectOk t => 0x22 :: dataBytes t
  | .connQuery c => [0x28, c]
  | .connSet c ip rport lport ssl =>
    0x29 :: c :: (ip.octets ++ halfBytes rport ++ halfBytes lport ++ [ssl])
  | .assocQuery => [0x2A]
  | .assocSet => [0x2B]
  | .codecSend b => [0x80, b]
  | .codecRecv => [0x81]
  | .rxProcess b => [0x82, b]
  | .pushHeader h => 0x83 :: headerOperand h
  | .pushByte b => [0x84, b]
  | .popHeader => [0x85]
  | .peekByte => [0x86]
  | .popByte => [0x87]
  | .availableBytes => [0x88]
  | .dropOldest n => [0x89, n]
  | .advance => [0x8A]
  | .classifyLine l => 0x8B :: dataBytes l
  | .respStep c => [0x8C, c]
  | .asyncDispatch s d => 0x8D :: cidByte s :: dataBytes d
  | .connConnect c ip rport lport ssl =>
    0x8E :: cidByte c :: (ip.octets ++ halfBytes rport ++ halfBytes lport ++ [flagByte ssl])
  | .connDisconnect c => [0x8F, cidByte c]
  | .connFail c => [0x90, cidByte c]
  | .disassocCascade => [0x91]
  | .assocUpdate => [0x92]
  | .ncmConnect c => [0x93, cidByte c]
  | .takeEvents => [0x94]
  | .parseInt base width chars =>
    0x95 :: (halfBytes (BitVec.ofNat 16 chars.length) ++ base :: widthByte width :: chars)
  | .parseIp chars => 0x96 :: dataBytes chars
  | .formatFields f => 0x97 :: formOperand f
  | .writeFrame c a d => 0x98 :: cidByte c :: (addrOperand a ++ dataBytes d)
  | .waitDataResp => [0x99]

/-- The port that takes an operation: the host port for the rows of 30 R119, the micro port for those of R120. -/
def Instr.port : Instr → PortKind
  | .start _ | .startDone _ | .stop | .service | .poll | .status => .host
  | .peek _ | .read _ | .readAny | .readBuf _ _ | .firstCid | .available _ | .availableAny => .host
  | .write _ _ | .writeTo _ _ _ _ => .host
  | .sendCommand _ | .readResponse _ _ | .sendCommandExpectOk _ => .host
  | .connQuery _ | .connSet _ _ _ _ _ | .assocQuery | .assocSet => .host
  | .codecSend _ | .codecRecv | .rxProcess _ => .micro
  | .pushHeader _ | .pushByte _ | .popHeader | .peekByte | .popByte => .micro
  | .availableBytes | .dropOldest _ | .advance => .micro
  | .classifyLine _ | .respStep _ | .asyncDispatch _ _ => .micro
  | .connConnect _ _ _ _ _ | .connDisconnect _ | .connFail _ | .disassocCascade => .micro
  | .assocUpdate | .ncmConnect _ | .takeEvents => .micro
  | .parseInt _ _ _ | .parseIp _ | .formatFields _ => .micro
  | .writeFrame _ _ _ | .waitDataResp => .micro

/-! ## Words given as numbers -/

/-- The first `n` bytes of a number, least significant first. -/
def bytesOfNat : Nat → Nat → List Byte
  | 0, _ => []
  | n + 1, w => BitVec.ofNat 8 w :: bytesOfNat n (w / 256)

/-- How many bytes the longest operation with all-zero operand bytes has: CONN_CONNECT and PUSH_HEADER have 11. -/
def longestPlainWord : Nat := 16

/-- The bytes of a table word: `nbits` bits of `w`, first byte least significant, and zeros after them. -/
def tableBytes (nbits w : Nat) : List Byte :=
  bytesOfNat (nbits / 8) w ++ List.replicate longestPlainWord 0

/-- The port a table word belongs to: a MICRO code (30 R120: 0x80 to 0x9F) is no host opcode. -/
def tablePort (w : Nat) : PortKind := if 0x80 ≤ w % 256 ∧ w % 256 < 0xA0 then .micro else .host

/-- The table word cut where its operation ends. -/
def tableWord (nbits w : Nat) : List Byte :=
  match decodePrefix (tablePort w) (tableBytes nbits w) with
  | .ok (_, rest) => (tableBytes nbits w).take ((tableBytes nbits w).length - rest.length)
  | .error _ => tableBytes nbits w

/-- What the decoder reads from a table word: `nbits` bits of `w`, the operand bytes above them 0. -/
def decodeTableWord (nbits w : Nat) : Option Instr :=
  match decode (tablePort w) (tableWord nbits w) with
  | .ok i => some i
  | .error _ => none

end Sys2Proof
end

