-- ==== Sys2Proof/Config.lean ====
section
/-! DEFINITION. The parameters of the block (00_scope.md R12) as one record, and the free values: what the spec leaves
to the environment or does not state, as constants without a body. The record is held by State (log 1); its default
values and its constraints stand in Machine/Params.lean. -/

namespace Sys2Proof

/-- The names of the response codes (43_correlator.md R300); the rules refer to codes by name only. -/
inductive RespName where
  | success
  | failure
  | einval
  | sockFail
  | enocid
  | ebadcid
  | enotsup
  | conSuccess
  | ecidclose
  | linkLost
  | disassoEvt
  | stbyTmrEvt
  | stbyAlmEvt
  | dpsleepEvt
  | bootUnexpec
  | noip
  | bootInternal
  | bootExternal
  | nwconnSuccess
deriving DecidableEq, Repr

/-- A row of RESP_TABLE: the code's number, its name and its argument count (43 R300). -/
structure RespRow where
  code : Nat
  name : RespName
  argc : Nat
deriving DecidableEq, Repr

/-- A piece of TX_ADDRESSED_FORM (30 R112): a literal byte, ESC_CHAR, or a formatted field of the frame. -/
inductive TxPiece where
  | esc
  | lit (b : Byte)
  | cid
  | ip
  | port
  | len
deriving DecidableEq, Repr

/-- The parameters of 00 R12 that a model takes as arguments: the OPEN ones and the values from general knowledge
(93 U24, U25); and AWAIT_DATA_RESPONSE, which the spec fixes (D39) and `Config.valid` holds to its value. -/
structure Config where
  /-- RING_CAP -/
  ringCap : Nat
  /-- SERVICE_MAX_ITER -/
  serviceMaxIter : Nat
  /-- LINE_BUF_INTERNAL -/
  lineBufInternal : Nat
  /-- SUBTYPE_OF, as the list of (code, subtype) pairs where it is defined -/
  subtypeOf : List (Nat × Cid)
  /-- RESP_TABLE -/
  respTable : List RespRow
  /-- ESC_CHAR -/
  escChar : Byte
  introZ : Byte
  introA : Byte
  introY : Byte
  introOk : Byte
  introFail : Byte
  busIdle : Byte
  busEsc : Byte
  busXon : Byte
  busXoff : Byte
  busAck : Byte
  busMask : Byte
  /-- TX_ADDRESSED_FORM -/
  txAddressed : List TxPiece
  /-- AWAIT_DATA_RESPONSE: true in every valid configuration (00 R12) -/
  awaitDataResponse : Bool
deriving DecidableEq, Repr

/-- FREE VALUE (log 5): what the k-th draw answers when it is a LinkRead and no scripted answer is left (00 R9, 93 U13). -/
opaque Config.freeLinkRead : Nat → Option Byte

/-- FREE VALUE (log 5): what the k-th draw answers when it is a BusExchange (00 R10, 93 U13). -/
opaque Config.freeExchange : Nat → Byte

/-- FREE VALUE (log 5): what the k-th draw answers when it is a BusDataReady (00 R10, 93 U13). -/
opaque Config.freeDataReady : Nat → Bool

/-- FREE VALUE (log 5): what the k-th draw answers when it is an Expired (00 R11, 60 R496, 93 U13). -/
opaque Config.freeExpired : Nat → Bool

/-- FREE VALUE (log 13): the u16 field of a result record that counts more than 65535 things (43 R305 states none). -/
opaque Config.freeCount : Nat → Half

/-- FREE VALUE (log 13): the argc byte of a result record for a code of more than 255 arguments (43 R305 states none). -/
opaque Config.freeArgc : Nat → Byte

/-- FREE VALUE (log 24): the code number that the line "OK" answers when RESP_TABLE has no row named SUCCESS, or several
(43 R295, R300 state none). -/
opaque Config.freeOkCode : List RespRow → Nat

/-- FREE VALUE (log 14): the bytes of dec4(v) for v above 9999 (45 R395 states none). -/
opaque Config.freeDec4 : Nat → List Byte

end Sys2Proof
end

