-- ==== Sys2Proof/Machine/Params.lean ====
section
/-! DEFINITION. The fixed parameters of the block, the default values and the constraints of the others
(00_scope.md R12, R13). -/

namespace Sys2Proof

/-! ## Fixed values (00 R12) -/

/-- MAX_FRAME: the largest payload of a written frame. -/
def maxFrame : Nat := 1400
/-- ALLONES_LIMIT: consecutive ALL-ONES markers that kill the bus. -/
def allOnesLimit : Nat := 20
/-- SCRATCH_SIZE: the header scratch buffer. -/
def scratchSize : Nat := 16
/-- ASYNC_MAX: the largest async body. -/
def asyncMax : Nat := 99
/-- ASYNC_LEN_BASE: the base of the async length field. -/
def asyncLenBase : Nat := 10
/-- HDR_MAX: the largest serialized header record. -/
def hdrMax : Nat := 9
/-- The size of the record of a plain frame (20 R73). -/
def hdrPlain : Nat := 3
/-- MAX_CODE: the highest response code. -/
def maxCode : Nat := 18
/-- BUS_ALL_ONES, the error marker (30 R100). -/
def busAllOnes : Byte := 0xFF
/-- BUS_ALL_ZEROS, the busy marker (30 R100). -/
def busAllZeros : Byte := 0x00

/-! ## Characters (00 R14) -/

def chSP : Byte := 0x20
def chHT : Byte := 0x09
def chCR : Byte := 0x0D
def chLF : Byte := 0x0A
/-- '.' -/
def chDot : Byte := 0x2E
/-- ':' -/
def chColon : Byte := 0x3A
/-- The literal "OK". -/
def textOK : List Byte := [0x4F, 0x4B]

/-! ## RESP_TABLE (43 R300) -/

/-- The default table of 43 R300 (PRESUMED, log 2: the spec marks it general knowledge). -/
def respTableDefault : List RespRow := [
  ⟨0, .success, 0⟩, ⟨1, .failure, 0⟩, ⟨2, .einval, 0⟩, ⟨3, .sockFail, 1⟩, ⟨4, .enocid, 0⟩,
  ⟨5, .ebadcid, 0⟩, ⟨6, .enotsup, 0⟩, ⟨7, .conSuccess, 1⟩, ⟨8, .ecidclose, 1⟩, ⟨9, .linkLost, 0⟩,
  ⟨10, .disassoEvt, 0⟩, ⟨11, .stbyTmrEvt, 0⟩, ⟨12, .stbyAlmEvt, 0⟩, ⟨13, .dpsleepEvt, 0⟩,
  ⟨14, .bootUnexpec, 0⟩, ⟨15, .noip, 0⟩, ⟨16, .bootInternal, 0⟩, ⟨17, .bootExternal, 0⟩,
  ⟨18, .nwconnSuccess, 1⟩]

/-- The row of a code number, if RESP_TABLE has one. -/
def Config.row (cfg : Config) (c : Nat) : Option RespRow := cfg.respTable.find? (fun r => r.code == c)

/-- The code number of the line "OK": that of the row named SUCCESS (43 R295, R300). With no such row, or several, the
spec states none, and it is a free value (DESIGN CHOICE, log 24). -/
def Config.okCode (cfg : Config) : Nat :=
  match cfg.respTable.filter (fun r => r.name == .success) with
  | [r] => r.code
  | _ => Config.freeOkCode cfg.respTable

/-- How many decimal digits a response code has (30 R109: one or two). -/
def codeDigits (c : Nat) : Nat := if c < 10 then 1 else 2

/-- MAX_RESP_LEN: the longest line CLASSIFY_LINE accepts (43 R302). -/
def Config.maxRespLen (cfg : Config) : Nat :=
  cfg.respTable.foldl (fun m r => max m (codeDigits r.code + 2 * r.argc)) 2

/-- SUBTYPE_OF, where it is defined (00 R12, 44 R341). -/
def Config.subtype (cfg : Config) (c : Nat) : Option Cid :=
  (cfg.subtypeOf.find? (fun p => p.1 == c)).map (fun p => p.2)

/-- RES, the reserved bus values (30 R100). -/
def Config.reserved (cfg : Config) : List Byte :=
  [busAllZeros, cfg.busAck, cfg.busIdle, cfg.busXoff, cfg.busEsc, cfg.busXon, busAllOnes]

/-! ## Values and constraints -/

/-- The configuration of State.reset: the fixed and default values of 00 R12 (the general-knowledge ones PRESUMED,
log 2), and for the OPEN parameters the test configuration of 95 section 0 (DESIGN CHOICE, log 1). -/
def Config.vector : Config where
  ringCap := 32
  serviceMaxIter := 16
  lineBufInternal := 16
  subtypeOf := [(3, 0), (4, 1), (5, 2), (6, 3), (7, 4), (8, 5), (9, 6), (10, 7), (11, 8), (12, 9), (13, 10),
    (14, 11), (15, 12), (16, 13), (17, 14), (18, 15)]
  respTable := respTableDefault
  escChar := 0x1B
  introZ := 0x5A
  introA := 0x41
  introY := 0x79
  introOk := 0x4F
  introFail := 0x46
  busIdle := 0xF5
  busEsc := 0xFB
  busXon := 0xFD
  busXoff := 0xFA
  busAck := 0xF3
  busMask := 0x20
  txAddressed := [.esc, .lit 0x59, .cid, .ip, .lit chColon, .port, .lit chColon, .len]
  awaitDataResponse := true

/-- RING_CAP is a power of two and at least 32 (00 R13, 42 R241). -/
def Config.ringOk (cfg : Config) : Bool :=
  decide (2 ^ Nat.log2 cfg.ringCap = cfg.ringCap) && decide (32 ≤ cfg.ringCap)

/-- SUBTYPE_OF is a partial function and injective where it is defined (00 R13). -/
def Config.subtypeOk (cfg : Config) : Bool :=
  decide (cfg.subtypeOf.map (fun p => p.1)).Nodup && decide (cfg.subtypeOf.map (fun p => p.2)).Nodup

/-- The seven reserved bus values are distinct (30 R100). -/
def Config.busOk (cfg : Config) : Bool := decide cfg.reserved.Nodup

/-- A code whose rules read its first argument has one (DEDUCED, log 15). -/
def RespRow.argOk (r : RespRow) : Bool :=
  match r.name with
  | .conSuccess | .sockFail | .ecidclose | .nwconnSuccess => decide (1 ≤ r.argc)
  | _ => true

/-- The codes of RESP_TABLE lie in 0..MAX_CODE (00 R12, 30 R109), and it names each once (DEDUCED, log 15). -/
def Config.tableOk (cfg : Config) : Bool :=
  decide (cfg.respTable.map (fun r => r.code)).Nodup
    && cfg.respTable.all (fun r => decide (r.code ≤ maxCode) && r.argOk)

/-- The constraints a model checks at configuration time (00 R13, 30 R100). AWAIT_DATA_RESPONSE is no parameter that a
model may replace: 00 R12 fixes it as true. -/
def Config.valid (cfg : Config) : Bool :=
  cfg.ringOk && decide (1 ≤ cfg.serviceMaxIter) && decide (cfg.maxRespLen + 1 ≤ cfg.lineBufInternal)
    && cfg.subtypeOk && cfg.busOk && cfg.tableOk && cfg.awaitDataResponse

end Sys2Proof
end

