-- ==== Sys2Proof/Machine/State.lean ====
section
/-! DEFINITION. The state of the block (10_state.md R30 to R52) as plain data, with the model's own fields beside it, the
reasons a step can stop, and the state at power-on (70_reset_and_hazards.md R520). -/

namespace Sys2Proof.Machine

/-! ## Enumerations of the registers -/

/-- `lifecycle` (10 R31). -/
inductive Lifecycle where
  | stopped
  | starting
  | running
deriving DecidableEq, Repr

/-- `linkMode` (10 R32). -/
inductive LinkMode where
  | stream
  | bus
deriving DecidableEq, Repr

/-- `fatalCause` (10 R33, 60 R484). -/
inductive FatalCause where
  | none
  | responseTimeout
  | dataResponseTimeout
  | busErrorStorm
deriving DecidableEq, Repr

/-- `rxState` (10 R37). -/
inductive RxState where
  | idle
  | escape
  | escapeZ
  | escapeA
  | escapeY1
  | escapeY2
  | escapeY3
  | async
  | bulk
deriving DecidableEq, Repr

/-- `dataResp` (10 R42). -/
inductive DataResp where
  | none
  | ok
  | fail
deriving DecidableEq, Repr

/-- `assocPending` (10 R47). -/
inductive AssocEvent where
  | none
  | associated
  | disassociated
deriving DecidableEq, Repr

/-- `ncmPending` (10 R48). -/
inductive NcmEvent where
  | none
  | connected
  | disconnected
deriving DecidableEq, Repr

/-- The modes of READ_RESPONSE (30 R118). -/
inductive RMode where
  | raw
  | discard
  | callback
deriving DecidableEq, Repr

/-! ## Records -/

/-- A storage space of 20 R70: a list of (address, byte) pairs, addresses strictly rising, none equal to what an
unlisted address reads as (Machine/Ops.lean; log 4). -/
abbrev Memory := List Host.Cell

/-- An entry of the connection table (10 R45). -/
structure Conn where
  connected : Bool
  error : Bool
  remoteIp : IPv4
  remotePort : Half
  localPort : Half
  sslEnabled : Bool
deriving DecidableEq, Repr

/-- The entry with every field 0 (70 R521). -/
def Conn.zero : Conn := ⟨false, false, IPv4.zero, 0, 0, false⟩

/-- The line state of one READ_RESPONSE (43 R291): `buf` holds `B[0..u-1]`, so that `u` is its length, `start` is `s`,
and `cap` is `N`. -/
structure LineState where
  mode : RMode
  cap : Nat
  buf : List Byte
  start : Nat
  dropLine : Bool
  truncated : Bool
  lines : List (List Byte)
deriving DecidableEq, Repr

/-- The line state a READ_RESPONSE starts with (43 R303). -/
def LineState.fresh (mode : RMode) (cap : Nat) : LineState := ⟨mode, cap, [], 0, false, false, []⟩

/-- What CLASSIFY_LINE answers (43 R295): a RESP_TABLE code with its name and arguments, or UNKNOWN. -/
inductive LineClass where
  | code (c : Nat) (name : RespName) (args : List Cid)
  | unknown
deriving DecidableEq, Repr

/-- What RESP_STEP answers (43 R304). -/
inductive LineStep where
  | more
  | done (c : Nat) (name : RespName) (args : List Cid)
deriving DecidableEq, Repr

/-- What RX_PROCESS answers (41 R190). -/
inductive RxResult where
  | line (b : Byte)
  | absorbed
deriving DecidableEq, Repr

/-- The result codes (60 R481); 0x07 is reserved and has no name. -/
inductive ResultCode where
  | ok
  | errNotStarted
  | errUnrecoverable
  | errBadOperand
  | errNotConnected
  | noDataOtherCid
  | empty
  | errDataRejected
  | errAlreadyStarted
  | errIllegalOp
  | errNoByte
deriving DecidableEq, Repr

/-- An address PARSE_IP accepted (45 R393). -/
structure ParsedIp where
  groups : Nat
  ip : IPv4
deriving DecidableEq, Repr

/-- What an operation answers (log 18): the result record of a host operation (30 R117), or the result of a
micro-operation run on the micro port. -/
inductive Response where
  | record (bytes : List Byte)
  | code (c : ResultCode)
  | byte (b : Option Byte)
  | rx (r : RxResult)
  | none
  | header (h : FrameHeader)
  | count (n : Nat)
  | classified (k : LineClass)
  | lineStep (r : LineStep)
  | dispatched (accepted : Bool)
  | events (ev : Byte) (cid : Cid)
  | number (v : Option Nat)
  | address (a : Option ParsedIp)
  | text (bytes : List Byte)
deriving DecidableEq, Repr

/-- One link interaction (00 R9 to R11, R14). -/
inductive LinkEvent where
  | write (b : Byte)
  | read (answer : Option Byte)
  | exchange (sent : Byte) (answer : Byte)
  | ready (answer : Bool)
  | expired (answer : Bool)
deriving DecidableEq, Repr

/-- One diagnostic record (60 R482). -/
inductive LogEvent where
  | hdrParseFail
  | unknownEscape
  | unsolicitedDataResponse
  | asyncReject
  | ringDrop
  | txRxDataDiscarded
deriving DecidableEq, Repr

/-- The environment (log 5): the answers it has given to the link primitives and the block has not drawn yet, in order,
and the number of the next free draw, which answers when none is left. -/
structure Env where
  linkReads : List (Option Byte)
  exchanges : List Byte
  dataReady : List Bool
  expired : List Bool
  draws : Nat
deriving DecidableEq, Repr

/-- An operation word on a port (00 R8, log 7). -/
structure Request where
  port : PortKind
  word : List Byte
deriving DecidableEq, Repr

/-! ## Operations in progress (log 6) -/

/-- Who gets the result of a frame write (46 R442) or of a data-response wait (46 R443). -/
inductive FrameCaller where
  /-- the micro-operation WRITE_FRAME -/
  | frame
  /-- the micro-operation WAIT_DATA_RESP -/
  | wait
  /-- WRITE or WRITE_TO: the data after this frame and the number of frames before it (46 R440) -/
  | write (cid : Cid) (addr : Option NetAddr) (rest : List Byte) (frames : Nat)
deriving DecidableEq, Repr

/-- What follows when all the bytes are sent. -/
inductive SendThen where
  /-- the micro-operation CODEC_SEND -/
  | codec
  /-- SEND_COMMAND (43 R307) -/
  | command
  /-- SEND_COMMAND_EXPECT_OK (43 R308) -/
  | commandExpectOk
  /-- WRITE_FRAME (46 R442) -/
  | frame (caller : FrameCaller)
deriving DecidableEq, Repr

/-- An operation that is waiting on the link: the loops of 40 R153, 43 R303 and 46 R443. -/
inductive Activity where
  /-- sending the bytes of `tx` through CODEC_SEND -/
  | send (tx : List Byte) (andThen : SendThen)
  /-- the loop of READ_RESPONSE; `expectOk` when SEND_COMMAND_EXPECT_OK reads the answer -/
  | response (expectOk : Bool)
  /-- the loop of WAIT_DATA_RESP -/
  | dataWait (caller : FrameCaller)
deriving DecidableEq, Repr

/-! ## The state -/

/-- The state of the block: the parameters, the registers of 10 R31 to R48, and the model's own fields. -/
structure State where
  /-- the parameters of 00 R12; no operation writes them (log 1) -/
  cfg : Config
  lifecycle : Lifecycle
  linkMode : LinkMode
  unrecoverable : Bool
  fatalCause : FatalCause
  paused : Bool
  escPending : Bool
  allOnesRun : Nat
  rxState : RxState
  scratch : Memory
  scratchLen : Nat
  asyncSubtype : Cid
  asyncLen : Nat
  asyncBuf : Memory
  asyncCount : Nat
  yCid : Cid
  yIp : IPv4
  yPort : Half
  head : FrameHeader
  dataResp : DataResp
  dataWait : Bool
  ring : Memory
  headIdx : Nat
  tailIdx : Nat
  tail : FrameHeader
  conn : Vector Conn 16
  associated : Bool
  assocPending : AssocEvent
  ncmPending : NcmEvent
  ncmValid : Bool
  ncmCid : Cid
  /-- the line state of 43 R291, live while a READ_RESPONSE runs -/
  line : LineState
  /-- the operation in progress (log 6) -/
  activity : Option Activity
  /-- the operation words not yet taken (log 7) -/
  port : List Request
  /-- the environment's answers (log 5) -/
  env : Env
  /-- the last result (log 18) -/
  result : Option Response
  /-- the link interactions, newest first (log 18) -/
  trace : List LinkEvent
  /-- the diagnostic records, newest first (log 18) -/
  log : List LogEvent
deriving DecidableEq, Repr

/-! ## Stops -/

/-- The block has no traps (60 R480); the one fault is for data that no register can hold. -/
inductive Fault where
  /-- Raised by step alone, when a counter or cursor of State holds a value outside its register's range, so that an
  access would reach a cell that does not exist (20 R84); no operation produces such a value. Safe: the machine
  stops. (log 16) -/
  | registerOutOfRange
deriving DecidableEq, Repr

/-- Why a step has no meaning to run. -/
inductive Refusal where
  /-- Raised by exec alone, for an operation that has no meaning yet. Safe: the machine stops. -/
  | notModelled (mnemonic : String)
  /-- Raised by step alone, for parameters that 00 R13 says a model refuses. Safe: the machine stops. (log 17) -/
  | invalidConfig
  /-- Raised by step alone, for bytes on a port that are no operation word: too short, too long, or a micro operand of
  no value. Safe: the machine stops. (log 9) -/
  | notAnOperationWord (why : DecodeError)
deriving DecidableEq, Repr

/-! ## Power-on -/

/-- Power-on with given parameters: `lifecycle` is STOPPED (70 R520); every other register is unspecified by the spec,
and holds what StopInit would leave (DESIGN CHOICE, log 3). -/
def State.resetWith (cfg : Config) : State where
  cfg := cfg
  lifecycle := .stopped
  linkMode := .stream
  unrecoverable := false
  fatalCause := .none
  paused := false
  escPending := false
  allOnesRun := 0
  rxState := .idle
  scratch := []
  scratchLen := 0
  asyncSubtype := 0
  asyncLen := 0
  asyncBuf := []
  asyncCount := 0
  yCid := 0
  yIp := IPv4.zero
  yPort := 0
  head := FrameHeader.zero
  dataResp := .none
  dataWait := false
  ring := []
  headIdx := 0
  tailIdx := 0
  tail := FrameHeader.zero
  conn := Vector.replicate 16 Conn.zero
  associated := false
  assocPending := .none
  ncmPending := .none
  ncmValid := false
  ncmCid := 0
  line := LineState.fresh .discard cfg.lineBufInternal
  activity := none
  port := []
  env := ⟨[], [], [], [], 0⟩
  result := none
  trace := []
  log := []

/-- The machine at power-on (70 R520), with the parameters `Config.vector` (log 1). -/
def State.reset : State := State.resetWith Config.vector

end Sys2Proof.Machine
end

