-- ==== Sys2Proof/Machine/Ops.lean ====
section
/-! DEFINITION. The named operations over storage, the link, the results and the errors. The block takes no exceptions
(60_exceptions.md R480): in their place stand SetFatal (R485), the result record (R481) and the initialisations of
START and STOP (70_reset_and_hazards.md R521, R522). -/

namespace Sys2Proof.Machine

/-! ## Storage (20_memory.md R70 to R79) -/

/-- What a cell that nothing has written reads as: the spec leaves it open and no rule reads one (93 U2, U3;
DESIGN CHOICE, log 4). -/
def unwritten : Byte := 0

/-- The byte at an address of a storage space. -/
def Memory.read (m : Memory) (a : Nat) : Byte :=
  match m with
  | [] => unwritten
  | (k, v) :: rest => if k = a then v else Memory.read rest a

/-- The cell `(a, v)` in front of `m`, unless it says what an unlisted address reads as. -/
def Memory.cons (a : Nat) (v : Byte) (m : Memory) : Memory := if v = unwritten then m else (a, v) :: m

/-- Write the byte `v` at the address `a`, keeping the canonical form. -/
def Memory.write (m : Memory) (a : Nat) (v : Byte) : Memory :=
  match m with
  | [] => Memory.cons a v []
  | (k, w) :: rest =>
    if a < k then Memory.cons a v ((k, w) :: rest)
    else if a = k then Memory.cons a v rest
    else (k, w) :: Memory.write rest a v

/-- The `n` consecutive bytes from an address (00 R14 MemRead). -/
def Memory.readN (m : Memory) (a : Nat) : Nat → List Byte
  | 0 => []
  | n + 1 => m.read a :: Memory.readN m (a + 1) n

/-- Write consecutive bytes from an address (00 R14 MemWrite). -/
def Memory.writeList (m : Memory) (a : Nat) : List Byte → Memory
  | [] => m
  | b :: bs => Memory.writeList (m.write a b) (a + 1) bs

/-- The canonical form: addresses strictly rising, and no entry equal to what an unlisted address reads as. -/
def Memory.wf : Memory → Bool
  | [] => true
  | (k, v) :: rest => decide (v ≠ unwritten) && rest.all (fun c => decide (k < c.1)) && Memory.wf rest

/-- Every listed address is one of the `n` cells of the space. -/
def Memory.within (m : Memory) (n : Nat) : Bool := m.all (fun c => decide (c.1 < n))

/-! ## Results, log and errors -/

/-- Answer the operation (30 R117, log 18). -/
def State.respond (s : State) (r : Response) : State := { s with result := some r }

/-- Emit a diagnostic record; nothing reads it (00 R14). -/
def State.emit (s : State) (e : LogEvent) : State := { s with log := e :: s.log }

/-- Record a link interaction (00 R14). -/
def State.note (s : State) (e : LinkEvent) : State := { s with trace := e :: s.trace }

/-- SetFatal (60 R485): the first cause is kept. -/
def State.setFatal (s : State) (cause : FatalCause) : State :=
  if s.unrecoverable then s else { s with unrecoverable := true, fatalCause := cause }

/-- The byte of a result code (60 R481). -/
def ResultCode.byte : ResultCode → Byte
  | .ok => 0x00
  | .errNotStarted => 0x01
  | .errUnrecoverable => 0x02
  | .errBadOperand => 0x03
  | .errNotConnected => 0x04
  | .noDataOtherCid => 0x05
  | .empty => 0x06
  | .errDataRejected => 0x08
  | .errAlreadyStarted => 0x09
  | .errIllegalOp => 0x0A
  | .errNoByte => 0x0B

/-- The result record of a host operation: the code, and the outputs that only OK carries (30 R117, 60 R481). -/
def State.hostOk (s : State) (outputs : List Byte) : State :=
  s.respond (.record (ResultCode.ok.byte :: outputs))

/-- The result record of a code with no outputs (60 R481). -/
def State.hostCode (s : State) (c : ResultCode) : State := s.respond (.record [c.byte])

/-- The u16 field of a result record for a count; a count the field cannot hold is a free value (log 13). -/
def countBytes (n : Nat) : List Byte :=
  halfBytes (if n < 65536 then BitVec.ofNat 16 n else Config.freeCount n)

/-- The argc byte of a result record; a count the byte cannot hold is a free value (43 R305, log 13). -/
def argcByte (n : Nat) : Byte := if n < 256 then BitVec.ofNat 8 n else Config.freeArgc n

/-! ## The link primitives (00 R9 to R11): a scripted answer if one is left, else a free draw (log 5) -/

/-- LinkWrite (00 R9). -/
def linkWrite (b : Byte) (s : State) : State := s.note (.write b)

/-- LinkRead (00 R9). -/
def linkRead (s : State) : Option Byte × State :=
  match s.env.linkReads with
  | a :: rest => (a, { s with env := { s.env with linkReads := rest } }.note (.read a))
  | [] =>
    let a := Config.freeLinkRead s.env.draws
    (a, { s with env := { s.env with draws := s.env.draws + 1 } }.note (.read a))

/-- BusExchange (00 R10). -/
def busExchange (t : Byte) (s : State) : Byte × State :=
  match s.env.exchanges with
  | r :: rest => (r, { s with env := { s.env with exchanges := rest } }.note (.exchange t r))
  | [] =>
    let r := Config.freeExchange s.env.draws
    (r, { s with env := { s.env with draws := s.env.draws + 1 } }.note (.exchange t r))

/-- BusDataReady (00 R10). -/
def busDataReady (s : State) : Bool × State :=
  match s.env.dataReady with
  | a :: rest => (a, { s with env := { s.env with dataReady := rest } }.note (.ready a))
  | [] =>
    let a := Config.freeDataReady s.env.draws
    (a, { s with env := { s.env with draws := s.env.draws + 1 } }.note (.ready a))

/-- Expired (00 R11, 60 R496). -/
def expired (s : State) : Bool × State :=
  match s.env.expired with
  | a :: rest => (a, { s with env := { s.env with expired := rest } }.note (.expired a))
  | [] =>
    let a := Config.freeExpired s.env.draws
    (a, { s with env := { s.env with draws := s.env.draws + 1 } }.note (.expired a))

/-- How many scripted answers are left. -/
def Env.answersLeft (e : Env) : Nat :=
  e.linkReads.length + e.exchanges.length + e.dataReady.length + e.expired.length

/-! ## Reset (70_reset_and_hazards.md) -/

/-- What StartInit and StopInit both write (70 R521, R522): every register of R521 but `linkMode`. -/
def State.initRegisters (s : State) : State :=
  { s with
    unrecoverable := false
    fatalCause := .none
    paused := false
    escPending := false
    allOnesRun := 0
    rxState := .idle
    scratchLen := 0
    asyncCount := 0
    head := FrameHeader.zero
    tail := FrameHeader.zero
    headIdx := 0
    tailIdx := 0
    dataResp := .none
    dataWait := false
    conn := Vector.replicate 16 Conn.zero
    associated := false
    assocPending := .none
    ncmPending := .none
    ncmValid := false
    ncmCid := 0 }

/-- StartInit (70 R521). -/
def State.startInit (s : State) (mode : LinkMode) : State := { s.initRegisters with linkMode := mode }

/-- StopInit (70 R522): `linkMode` keeps its value. -/
def State.stopInit (s : State) : State := { s.initRegisters with lifecycle := .stopped }

/-! ## The operation gate (46 R464) -/

/-- Steps 3 and 4 of the gate, for every host operation but START, STOP and STATUS (START_DONE makes the same tests by
R461 and 90 C4): a failed gate writes no state but the result. -/
def State.gated (s : State) (operation : State → State) : State :=
  if s.lifecycle = .stopped then s.hostCode .errNotStarted
  else if s.unrecoverable then s.hostCode .errUnrecoverable
  else operation s

/-- Begin an operation that waits on the link (log 6). -/
def State.beginActivity (s : State) (a : Activity) : State := { s with activity := some a, result := none }

/-- The operation in progress ends with an answer (log 6). -/
def State.finish (s : State) (r : Response) : State := { s with activity := none, result := some r }

/-! ## The connection table (10 R45) -/

/-- The entry of a CID. -/
def State.connAt (s : State) (c : Cid) : Conn := s.conn[c]

/-- Replace the entry of a CID. -/
def State.setConn (s : State) (c : Cid) (e : Conn) : State := { s with conn := s.conn.set c e }

end Sys2Proof.Machine
end

