-- ==== Sys2Proof/Machine/Flags.lean ====
section
/-! DEFINITION. The flags of the block (10_state.md R50): the STATUS word (R49), the run of ALL-ONES markers (40 R156),
the coalesced event flags (44_async_events.md R349, R350) and the event byte of their delivery (R357). -/

namespace Sys2Proof.Machine

/-! ## The STATUS word (10 R49) -/

def Lifecycle.code : Lifecycle → BitVec 2
  | .stopped => 0
  | .starting => 1
  | .running => 2

def LinkMode.code : LinkMode → BitVec 1
  | .stream => 0
  | .bus => 1

def FatalCause.code : FatalCause → BitVec 2
  | .none => 0
  | .responseTimeout => 1
  | .dataResponseTimeout => 2
  | .busErrorStorm => 3

def RxState.code : RxState → BitVec 4
  | .idle => 0
  | .escape => 1
  | .escapeZ => 2
  | .escapeA => 3
  | .escapeY1 => 4
  | .escapeY2 => 5
  | .escapeY3 => 6
  | .async => 7
  | .bulk => 8

def AssocEvent.code : AssocEvent → BitVec 2
  | .none => 0
  | .associated => 1
  | .disassociated => 2

def NcmEvent.code : NcmEvent → BitVec 2
  | .none => 0
  | .connected => 1
  | .disconnected => 2

/-- A flag as one bit. -/
def bit (b : Bool) : BitVec 1 := if b then 1 else 0

/-- The STATUS word, bit 15 down to bit 0 (10 R49). -/
def statusWord (s : State) : BitVec 16 :=
  bit (decide (s.ncmPending ≠ .none)) ++ s.assocPending.code ++ bit s.associated ++ s.rxState.code
    ++ bit s.escPending ++ bit s.paused ++ s.fatalCause.code ++ bit s.unrecoverable ++ s.linkMode.code
    ++ s.lifecycle.code

/-! ## The ALL-ONES run (40 R156) -/

/-- A received ALL-ONES marker: one more in the run, and a storm at the limit. -/
def State.countAllOnes (s : State) : State :=
  let run := min (s.allOnesRun + 1) allOnesLimit
  let s := { s with allOnesRun := run }
  if run = allOnesLimit then s.setFatal .busErrorStorm else s

/-- Any other received value resets the run. -/
def State.clearAllOnes (s : State) : State := { s with allOnesRun := 0 }

/-! ## Coalesced event flags (44 R349, R350) -/

/-- AssocEdge (44 R349): an opposite pending event is cancelled, else the event is pending. -/
def State.assocEdge (s : State) (e : AssocEvent) : State :=
  { s with assocPending := if s.assocPending ≠ .none ∧ s.assocPending ≠ e then .none else e }

/-- NcmEdge (44 R350). -/
def State.ncmEdge (s : State) (e : NcmEvent) : State :=
  { s with ncmPending := if s.ncmPending ≠ .none ∧ s.ncmPending ≠ e then .none else e }

/-- The event byte of TAKE_EVENTS (44 R357), bit 3 down to bit 0: NCM connect, associate, disassociate, NCM
disconnect; bits 7:4 zero. -/
def eventByte (s : State) : Byte :=
  (0 : BitVec 4) ++ bit (decide (s.ncmPending = .connected)) ++ bit (decide (s.assocPending = .associated))
    ++ bit (decide (s.assocPending = .disassociated)) ++ bit (decide (s.ncmPending = .disconnected))

end Sys2Proof.Machine
end

