-- ==== Sys2Proof/Machine/Codec.lean ====
section
/-! DEFINITION. The bus escaping and flow-control codec (40_bus_codec.md): the encoding of a data byte, the bytes received
while transmitting, and CODEC_RECV. CODEC_SEND can wait without end and so is run as an activity (Machine/Waits.lean);
what it sends for one byte is `sendByte` here. -/

namespace Sys2Proof.Machine

/-- `Esc(b)`: the bus encoding of one data byte (30 R101, 40 R150). -/
def escBytes (cfg : Config) (b : Byte) : List Byte :=
  if b ∈ cfg.reserved then [cfg.busEsc, b ^^^ cfg.busMask] else [b]

/-- `TxRx(r)`: a byte received by an exchange that CODEC_SEND made (40 R150); a data value is discarded. -/
def txRx (r : Byte) (s : State) : State :=
  if r = busAllOnes then s.countAllOnes
  else
    let s := s.clearAllOnes
    if r = s.cfg.busXoff then { s with paused := true }
    else if r = s.cfg.busXon then { s with paused := false }
    else if r ∈ s.cfg.reserved then s
    else s.emit .txRxDataDiscarded

/-- One exchange of CODEC_SEND: shift `t` out and handle the byte shifted in (40 R151, R154). -/
def exchangeOut (t : Byte) (s : State) : State :=
  let (r, s) := busExchange t s
  txRx r s

/-- The exchanges of one data byte, not interrupted (40 R154). -/
def exchangeAll : List Byte → State → State
  | [], s => s
  | t :: rest, s => exchangeAll rest (exchangeOut t s)

/-- What CODEC_SEND sends for one byte when it is not paused (40 R151, R152). -/
def sendByte (b : Byte) (s : State) : State :=
  match s.linkMode with
  | .stream => linkWrite b s
  | .bus => exchangeAll (escBytes s.cfg b) s

/-- The bus value CODEC_RECV received with no escape pending (40 R155 to R158, 30 R102). -/
def recvPlain (r : Byte) (s : State) : Option Byte × State :=
  if r = busAllOnes then (none, s.countAllOnes)
  else
    let s := s.clearAllOnes
    if r = s.cfg.busEsc then (none, { s with escPending := true })
    else if r = s.cfg.busXoff then (none, { s with paused := true })
    else if r = s.cfg.busXon then (none, { s with paused := false })
    else if r = s.cfg.busIdle ∨ r = s.cfg.busAck ∨ r = busAllZeros then (none, s)
    else (some r, s)

/-- CODEC_RECV on the bus, once the exchange is due (40 R155). -/
def recvBus (s : State) : Option Byte × State :=
  let (r, s) := busExchange s.cfg.busIdle s
  if s.escPending then (some (r ^^^ s.cfg.busMask), { s with escPending := false, allOnesRun := 0 })
  else recvPlain r s

/-- CODEC_RECV (40 R155). -/
def codecRecv (s : State) : Option Byte × State :=
  if s.unrecoverable then (none, s)
  else
    match s.linkMode with
    | .stream => linkRead s
    | .bus =>
      if s.escPending then recvBus s
      else
        let (ready, s) := busDataReady s
        if ready then recvBus s else (none, s)

/-- CODEC_RECV as a micro-operation (code 0x81). -/
def execCodecRecv (s : State) : Host.Outcome State Fault Refusal :=
  let (r, s) := codecRecv s
  .next (s.respond (.byte r))

end Sys2Proof.Machine
end

