-- ==== Sys2Proof/Machine/Operands.lean ====
section
/-! DEFINITION. The operands of host operations (30_encoding.md R118) and the parsers and formatters of fields
(45_parsers.md): digits, fixed-width integers, dotted addresses, and their inverses. All are pure. -/

namespace Sys2Proof.Machine

/-! ## Host operands (30 R118): a value, or `none` for ERR_BAD_OPERAND -/

/-- `cid`: bits [3:0], and bits [7:4] must be 0. -/
def cidOperand (b : Byte) : Option Cid := if b.toNat < 16 then some (Fin.ofNat 16 b.toNat) else none

/-- `mode` of START: 0 STREAM, 1 BUS. -/
def modeOperand (b : Byte) : Option LinkMode :=
  if b = 0 then some .stream else if b = 1 then some .bus else none

/-- `ok` of START_DONE and `ssl` of CONN_SET: 0 or 1. -/
def bitOperand (b : Byte) : Option Bool := if b = 0 then some false else if b = 1 then some true else none

/-- `rmode` of READ_RESPONSE: 0 RAW, 1 DISCARD, 2 CALLBACK. -/
def rmodeOperand (b : Byte) : Option RMode :=
  if b = 0 then some .raw else if b = 1 then some .discard else if b = 2 then some .callback else none

/-- Step 5 of the gate (46 R464): run the operation on the operand's value, or answer ERR_BAD_OPERAND. -/
def State.withOperand {α : Type} (s : State) (operand : Option α) (operation : α → State) : State :=
  match operand with
  | some v => operation v
  | none => s.hostCode .errBadOperand

/-! ## Digits -/

/-- '0'..'9'. -/
def isDec (b : Byte) : Bool := decide (0x30 ≤ b.toNat) && decide (b.toNat ≤ 0x39)

/-- The value of a decimal digit. -/
def decValue (b : Byte) : Nat := b.toNat - 0x30

/-- DigitValue (45 R391): digits, and letters of either case. -/
def digitValue (b : Byte) : Option Nat :=
  let n := b.toNat
  if 0x30 ≤ n ∧ n ≤ 0x39 then some (n - 0x30)
  else if 0x41 ≤ n ∧ n ≤ 0x5A then some (n - 0x41 + 10)
  else if 0x61 ≤ n ∧ n ≤ 0x7A then some (n - 0x61 + 10)
  else none

/-! ## PARSE_INT (45 R390 to R392) -/

/-- The destination width in bits. -/
def widthBits : IntWidth → Nat
  | .w8 => 8
  | .w16 => 16
  | .w32 => 32

/-- The loop of 45 R390 over the characters, with the value so far; the overflow check is made after every digit
(R392). -/
def parseDigits (base bits : Nat) : List Byte → Nat → Option Nat
  | [], v => some v
  | ch :: rest, v =>
    match digitValue ch with
    | none => none
    | some d =>
      if base ≤ d then none
      else if 2 ^ bits ≤ v * base + d then none
      else parseDigits base bits rest (v * base + d)

/-- PARSE_INT (45 R390); a base outside 2..36 fails, whatever the characters (log 21). -/
def parseInt (chars : List Byte) (base bits : Nat) : Option Nat :=
  if base < 2 ∨ 36 < base then none else parseDigits base bits chars 0

/-- PARSE_INT of one HEX character with an 8-bit destination, as a CID or subtype (41 R193, R194, R196; 43 R295). -/
def parseHexCid (ch : Byte) : Option Cid := (parseInt [ch] 16 8).map (Fin.ofNat 16)

/-- PARSE_INT with base 10 and a 16-bit destination (41 R193, R197, R198). -/
def parseDec16 (chars : List Byte) : Option Half := (parseInt chars 10 16).map (BitVec.ofNat 16)

/-! ## PARSE_IP (45 R393) -/

/-- The end of a group of `digits` digits with the value `v`, after the groups `done`. -/
def closeGroup (digits v : Nat) (done : List Byte) : Option (List Byte) :=
  if digits = 0 then none
  else if 256 ≤ v then none
  else if done.length = 4 then none
  else some (done ++ [BitVec.ofNat 8 v])

/-- The loop of 45 R393: in a group of `digits` digits so far with the value `v`, after the groups `done`. -/
def parseGroups : List Byte → Nat → Nat → List Byte → Option (List Byte)
  | [], digits, v, done => closeGroup digits v done
  | ch :: rest, digits, v, done =>
    if isDec ch then
      if digits = 3 then none else parseGroups rest (digits + 1) (10 * v + decValue ch) done
    else
      match closeGroup digits v done with
      | none => none
      | some done => if ch = chDot ∧ rest ≠ [] then parseGroups rest 0 0 done else none

/-- The octets of the groups; the octets of missing groups are 0 (45 R393). -/
def octetsOf (groups : List Byte) : IPv4 :=
  ⟨groups.getD 0 0, groups.getD 1 0, groups.getD 2 0, groups.getD 3 0⟩

/-- PARSE_IP (45 R393). -/
def parseIp (chars : List Byte) : Option ParsedIp :=
  (parseGroups chars 0 0 []).map (fun groups => ⟨groups.length, octetsOf groups⟩)

/-! ## FORMAT_FIELDS (45 R395) -/

/-- The character of a decimal digit. -/
def decChar (d : Nat) : Byte := BitVec.ofNat 8 (0x30 + d)

/-- hexU: one upper-case HEX character. -/
def hexU (v : Cid) : Byte := if v.val < 10 then decChar v.val else BitVec.ofNat 8 (0x41 + (v.val - 10))

/-- dec4: four decimal characters with leading zeros; above 9999 the form is not stated (log 14). -/
def dec4 (v : Nat) : List Byte :=
  if v < 10000 then [decChar (v / 1000), decChar (v / 100 % 10), decChar (v / 10 % 10), decChar (v % 10)]
  else Config.freeDec4 v

/-- decN: decimal without leading zeros, for values up to 65535. -/
def decN (v : Nat) : List Byte :=
  if v < 10 then [decChar v]
  else if v < 100 then [decChar (v / 10), decChar (v % 10)]
  else if v < 1000 then [decChar (v / 100), decChar (v / 10 % 10), decChar (v % 10)]
  else if v < 10000 then [decChar (v / 1000), decChar (v / 100 % 10), decChar (v / 10 % 10), decChar (v % 10)]
  else
    [decChar (v / 10000), decChar (v / 1000 % 10), decChar (v / 100 % 10), decChar (v / 10 % 10), decChar (v % 10)]

/-- dotted: the four groups in decimal, separated by dots. -/
def dotted (a : IPv4) : List Byte :=
  decN a.o1.toNat ++ chDot :: (decN a.o2.toNat ++ chDot :: (decN a.o3.toNat ++ chDot :: decN a.o4.toNat))

/-- EncodeRxHeader: the wire form of a received frame header (30 R104, R106). -/
def encodeRxHeader (cfg : Config) (h : FrameHeader) : List Byte :=
  if h.udp then
    cfg.escChar :: cfg.introY :: hexU h.cid ::
      (dotted h.ip ++ chSP :: (decN h.port.toNat ++ chHT :: dec4 h.length.toNat))
  else cfg.escChar :: cfg.introZ :: hexU h.cid :: dec4 h.length.toNat

/-- EncodeTxHeader (30 R111). -/
def encodeTxHeader (cfg : Config) (cid : Cid) (len : Nat) : List Byte :=
  cfg.escChar :: cfg.introZ :: hexU cid :: dec4 len

/-- One piece of TX_ADDRESSED_FORM. -/
def txPiece (cfg : Config) (cid : Cid) (a : NetAddr) (len : Nat) : TxPiece → List Byte
  | .esc => [cfg.escChar]
  | .lit b => [b]
  | .cid => [hexU cid]
  | .ip => dotted a.ip
  | .port => decN a.port.toNat
  | .len => dec4 len

/-- EncodeTxAddr (30 R112): the bytes of TX_ADDRESSED_FORM. -/
def encodeTxAddr (cfg : Config) (cid : Cid) (a : NetAddr) (len : Nat) : List Byte :=
  cfg.txAddressed.flatMap (txPiece cfg cid a len)

/-- FORMAT_FIELDS (45 R395). -/
def formatFields (cfg : Config) : FormatArg → List Byte
  | .hexU v => [hexU v]
  | .dec4 v => dec4 v.toNat
  | .decN v => decN v.toNat
  | .dotted ip => dotted ip
  | .rxHeader h => encodeRxHeader cfg h
  | .txHeader cid len => encodeTxHeader cfg cid len.toNat
  | .txAddr cid ip port len => encodeTxAddr cfg cid ⟨ip, port⟩ len.toNat

end Sys2Proof.Machine
end

