-- ==== Sys2Proof/Machine/Lines.lean ====
section
/-! DEFINITION. The line classifier and the line state of READ_RESPONSE (43_correlator.md R290 to R304). -/

namespace Sys2Proof.Machine

/-! ## CLASSIFY_LINE (43 R295) -/

/-- The arguments of a code: `argc` times one SP and one HEX character, and nothing after them. -/
def classifyArgs : Nat → List Byte → Option (List Cid)
  | 0, [] => some []
  | 0, _ :: _ => none
  | n + 1, sp :: ch :: rest =>
    if sp = chSP then
      match parseHexCid ch, classifyArgs n rest with
      | some v, some vs => some (v :: vs)
      | _, _ => none
    else none
  | _ + 1, _ => none

/-- The code of a line that begins with a digit, and what follows it: one digit, or two with no leading zero. -/
def classifyCode : List Byte → Option (Nat × List Byte)
  | [] => none
  | d :: rest =>
    if isDec d then
      match rest with
      | [] => some (decValue d, [])
      | e :: rest' =>
        if isDec e then
          if decValue d = 0 then none else some (10 * decValue d + decValue e, rest')
        else some (decValue d, e :: rest')
    else none

/-- CLASSIFY_LINE (43 R295); a line of no bytes has no code (log 12). The line "OK" is the SUCCESS code (R300), whose
number is a free value where RESP_TABLE does not have exactly one row of that name (log 24). -/
def classifyLine (cfg : Config) (line : List Byte) : LineClass :=
  if line = textOK then .code cfg.okCode .success []
  else
    match classifyCode line with
    | none => .unknown
    | some (c, rest) =>
      match cfg.row c with
      | none => .unknown
      | some r =>
        match classifyArgs r.argc rest with
        | none => .unknown
        | some args => .code c r.name args

/-! ## The line buffer (43 R291 to R293) -/

/-- `L`: the length of the current line. -/
def LineState.current (l : LineState) : Nat := l.buf.length - l.start

/-- The current line, `B[s..u-1]`. -/
def LineState.line (l : LineState) : List Byte := l.buf.drop l.start

/-- Evict the oldest byte of the buffer. -/
def LineState.evict (l : LineState) : LineState :=
  { l with buf := l.buf.drop 1, start := l.start - 1, truncated := true }

/-- `Store(c)` (43 R292): the overflow policy of a full buffer. -/
def LineState.store (maxLen : Nat) (c : Byte) (l : LineState) : LineState :=
  if l.dropLine then l
  else if l.buf.length < l.cap then { l with buf := l.buf ++ [c] }
  else if maxLen < l.current then { l with buf := l.buf.take l.start, dropLine := true, truncated := true }
  else { l.evict with buf := l.evict.buf ++ [c] }

/-- `StoreTerm(c)` (43 R293): a re-termination byte is never dropped. -/
def LineState.storeTerm (c : Byte) (l : LineState) : LineState :=
  let l := if l.buf.length = l.cap then l.evict else l
  { l with buf := l.buf ++ [c] }

/-- The current line is dropped from the buffer: `u <- s`. -/
def LineState.dropCurrent (l : LineState) : LineState := { l with buf := l.buf.take l.start }

/-- An unknown line, by the mode of the read (43 R304). CR LF as its terminator is 30 R110's general-knowledge value
(93 K6), a constant of the model (PRESUMED, log 23). -/
def LineState.unknown (l : LineState) : LineState :=
  match l.mode with
  | .raw =>
    let l := (l.storeTerm chCR).storeTerm chLF
    { l with start := l.buf.length }
  | .discard => l.dropCurrent
  | .callback => { l.dropCurrent with lines := l.lines ++ [l.line] }

/-- RESP_STEP (43 R304): one line byte. CR and LF as the terminators are 30 R110's general-knowledge values (93 K6),
constants of the model (PRESUMED, log 23). -/
def respStep (cfg : Config) (c : Byte) (l : LineState) : LineStep × LineState :=
  if c = chCR ∨ c = chLF then
    if l.dropLine then (.more, { l with dropLine := false })
    else if l.buf.length = l.start then (.more, l)
    else
      match classifyLine cfg l.line with
      | .code k name args => (.done k name args, l.dropCurrent)
      | .unknown => (.more, l.unknown)
  else (.more, l.store cfg.maxRespLen c)

/-! ## The result record of READ_RESPONSE (43 R305) -/

/-- A delivered line: its length and its bytes. -/
def lineRecord (line : List Byte) : List Byte := countBytes line.length ++ line

/-- The outputs after OK: code, argc, args, truncated, outLen and out (RAW), nlines and the lines (CALLBACK). Counts
their fields cannot hold are free values (log 13). -/
def responseRecord (l : LineState) (c : Nat) (args : List Cid) : List Byte :=
  let out := match l.mode with
    | .raw => l.buf.take l.start
    | _ => []
  let lines := match l.mode with
    | .callback => l.lines
    | _ => []
  BitVec.ofNat 8 c :: argcByte args.length :: (args.map cidByte
    ++ flagByte l.truncated :: (countBytes out.length ++ out
    ++ (countBytes lines.length ++ lines.flatMap lineRecord)))

/-! ## The micro-operations (30 R120) -/

/-- CLASSIFY_LINE (code 0x8B). -/
def execClassifyLine (line : List Byte) (s : State) : Host.Outcome State Fault Refusal :=
  .next (s.respond (.classified (classifyLine s.cfg line)))

/-- RESP_STEP (code 0x8C), on the line state that State holds (20 R70 (4), log 20). -/
def execRespStep (c : Byte) (s : State) : Host.Outcome State Fault Refusal :=
  let (r, l) := respStep s.cfg c s.line
  .next ({ s with line := l }.respond (.lineStep r))

end Sys2Proof.Machine
end

