-- ==== Sys2Proof/Machine/Events.lean ====
section
/-! DEFINITION. The async event processor and the connection and association state (44_async_events.md). -/

namespace Sys2Proof.Machine

/-! ## Connection table operations -/

/-- CONN_DISCONNECT (44 R344): nothing for a CID that is not connected; an NCM edge if it is the NCM CID. -/
def connDisconnect (c : Cid) (s : State) : State :=
  if (s.connAt c).connected then
    let s := s.setConn c { s.connAt c with connected := false }
    if s.ncmValid ∧ s.ncmCid = c then { s with ncmValid := false }.ncmEdge .disconnected else s
  else s

/-- CONN_CONNECT (44 R343): a missed disconnect is made first. -/
def connConnect (c : Cid) (ip : IPv4) (rport lport : Half) (ssl : Bool) (s : State) : State :=
  (connDisconnect c s).setConn c ⟨true, false, ip, rport, lport, ssl⟩

/-- CONN_CONNECT with no address: `CONN_CONNECT(c, 0.0.0.0, 0, 0, 0)` (44 R340, R348; 43 R301). -/
def connConnectPlain (c : Cid) (s : State) : State := connConnect c IPv4.zero 0 0 false s

/-- CONN_FAIL (44 R345): `error` is set even when the CID was not connected. -/
def connFail (c : Cid) (s : State) : State :=
  connDisconnect c (s.setConn c { s.connAt c with error := true })

/-! ## Association operations -/

/-- One CID of the cascade (44 R346). -/
def cascadeOne (s : State) (c : Cid) : State := if (s.connAt c).connected then connFail c s else s

/-- DISASSOC_CASCADE (44 R346): every connected CID, then one edge. -/
def disassocCascade (s : State) : State :=
  let s := (List.finRange 16).foldl cascadeOne s
  if s.associated then { s with associated := false }.assocEdge .disassociated else s

/-- ASSOC_UPDATE (44 R347). -/
def assocUpdate (s : State) : State :=
  if s.associated then s else { s with associated := true }.assocEdge .associated

/-- NCM_CONNECT (44 R348). -/
def ncmConnect (c : Cid) (s : State) : State :=
  let s := connConnectPlain c (assocUpdate s)
  let s := if s.ncmValid ∧ s.ncmCid ≠ c then { s with ncmValid := false }.ncmEdge .disconnected else s
  { s with ncmValid := true, ncmCid := c }.ncmEdge .connected

/-- The state after TAKE_EVENTS: each pending event is delivered once (44 R357). -/
def clearEvents (s : State) : State := { s with assocPending := .none, ncmPending := .none }

/-! ## Dispatch (44 R340 to R342) -/

/-- CR or LF. -/
def isTerminator (b : Byte) : Bool := decide (b = chCR) || decide (b = chLF)

/-- The body with every trailing CR and LF removed (44 R342). -/
def stripBody (body : List Byte) : List Byte := (body.reverse.dropWhile isTerminator).reverse

/-- The first argument of a code; Config.valid asks that the codes with a CID have one (log 15). -/
def firstArg (args : List Cid) : Cid := args.headD 0

/-- The effect of an event code, or `none` for a code that is not an event (44 R340). -/
def eventEffect (name : RespName) (args : List Cid) (s : State) : Option State :=
  match name with
  | .conSuccess => some (connConnectPlain (firstArg args) s)
  | .sockFail => some (connFail (firstArg args) s)
  | .ecidclose => some (connDisconnect (firstArg args) s)
  | .disassoEvt => some (disassocCascade s)
  | .noip => some (disassocCascade s)
  | .nwconnSuccess => some (ncmConnect (firstArg args) s)
  | .stbyTmrEvt => some s
  | .stbyAlmEvt => some s
  | .dpsleepEvt => some s
  | .bootUnexpec => some s
  | .bootInternal => some s
  | .bootExternal => some s
  | .success => none
  | .failure => none
  | .einval => none
  | .enocid => none
  | .ebadcid => none
  | .enotsup => none
  | .linkLost => none

/-- `Reject()` (44 R340): no register is written. -/
def rejectEvent (s : State) : Bool × State := (false, s.emit .asyncReject)

/-- ASYNC_DISPATCH (44 R340): whether the record was accepted, and the state after. -/
def asyncDispatch (subtype : Cid) (body : List Byte) (s : State) : Bool × State :=
  let text := stripBody body
  if text = [] then rejectEvent s
  else
    match classifyLine s.cfg text with
    | .unknown => rejectEvent s
    | .code c name args =>
      if s.cfg.subtype c = some subtype then
        match eventEffect name args s with
        | some s => (true, s)
        | none => rejectEvent s
      else rejectEvent s

/-! ## The micro-operations (30 R120) -/

/-- ASYNC_DISPATCH (code 0x8D). Run alone it takes a body of any length; 44 R340 states it for 0 to 99 bytes (DEDUCED,
log 19). -/
def execAsyncDispatch (subtype : Cid) (body : List Byte) (s : State) : Host.Outcome State Fault Refusal :=
  let (accepted, s) := asyncDispatch subtype body s
  .next (s.respond (.dispatched accepted))

/-- CONN_CONNECT (code 0x8E). -/
def execConnConnect (c : Cid) (ip : IPv4) (rport lport : Half) (ssl : Bool) (s : State) :
    Host.Outcome State Fault Refusal :=
  .next ((connConnect c ip rport lport ssl s).respond .none)

/-- CONN_DISCONNECT (code 0x8F). -/
def execConnDisconnect (c : Cid) (s : State) : Host.Outcome State Fault Refusal :=
  .next ((connDisconnect c s).respond .none)

/-- CONN_FAIL (code 0x90). -/
def execConnFail (c : Cid) (s : State) : Host.Outcome State Fault Refusal :=
  .next ((connFail c s).respond .none)

/-- DISASSOC_CASCADE (code 0x91). -/
def execDisassocCascade (s : State) : Host.Outcome State Fault Refusal :=
  .next ((disassocCascade s).respond .none)

/-- ASSOC_UPDATE (code 0x92). -/
def execAssocUpdate (s : State) : Host.Outcome State Fault Refusal :=
  .next ((assocUpdate s).respond .none)

/-- NCM_CONNECT (code 0x93). -/
def execNcmConnect (c : Cid) (s : State) : Host.Outcome State Fault Refusal :=
  .next ((ncmConnect c s).respond .none)

/-- TAKE_EVENTS (code 0x94). -/
def execTakeEvents (s : State) : Host.Outcome State Fault Refusal :=
  .next ((clearEvents s).respond (.events (eventByte s) s.ncmCid))

/-! ## The host operations on this state (30 R119) -/

/-- The 11 bytes CONN_QUERY answers after OK (44 R355). -/
def connRecord (e : Conn) : List Byte :=
  flagByte e.connected :: flagByte e.error :: (e.remoteIp.octets ++ halfBytes e.remotePort ++ halfBytes e.localPort
    ++ [flagByte e.sslEnabled])

/-- CONN_QUERY (44 R355). -/
def execConnQuery (cid : Byte) (s : State) : Host.Outcome State Fault Refusal :=
  .next (s.gated fun s => s.withOperand (cidOperand cid) fun c => s.hostOk (connRecord (s.connAt c)))

/-- CONN_SET (44 R354). -/
def execConnSet (cid : Byte) (ip : IPv4) (rport lport : Half) (ssl : Byte) (s : State) :
    Host.Outcome State Fault Refusal :=
  .next (s.gated fun s => s.withOperand (cidOperand cid) fun c => s.withOperand (bitOperand ssl) fun secure =>
    (connConnect c ip rport lport secure s).hostOk [])

/-- ASSOC_QUERY (44 R356). -/
def execAssocQuery (s : State) : Host.Outcome State Fault Refusal :=
  .next (s.gated fun s => s.hostOk
    [flagByte s.associated, s.assocPending.code.setWidth 8, s.ncmPending.code.setWidth 8, flagByte s.ncmValid,
      cidByte s.ncmCid])

/-- ASSOC_SET (44 R358). -/
def execAssocSet (s : State) : Host.Outcome State Fault Refusal :=
  .next (s.gated fun s => (assocUpdate s).hostOk [])

end Sys2Proof.Machine
end

