-- ==== Sys2Proof/Machine/Ring.lean ====
section
/-! DEFINITION. The dual-cursor ring buffer with embedded header records (42_ring_buffer.md, 20_memory.md R71 to R74). -/

namespace Sys2Proof.Machine

/-! ## Derived quantities (42 R240) -/

/-- `used = (headIdx - tailIdx) mod C` (20 R71). -/
def State.used (s : State) : Nat := (s.headIdx + s.cfg.ringCap - s.tailIdx) % s.cfg.ringCap

/-- `free = C - 1 - used` (20 R71). -/
def State.free (s : State) : Nat := s.cfg.ringCap - 1 - s.used

/-- `SkipNeeded(i)`: fewer than HDR_MAX cells remain before the physical end. -/
def skipNeeded (cfg : Config) (i : Nat) : Bool := decide (cfg.ringCap - i < hdrMax)

/-- `Size(h)` (20 R73). -/
def headerSize (udp : Bool) : Nat := if udp then hdrMax else hdrPlain

/-- The first byte of a record: `cid` in bits [3:0], 0 in [6:4], `udp` in bit 7 (20 R73). -/
def headerByte0 (h : FrameHeader) : Byte := BitVec.ofNat 8 (h.cid.val + if h.udp then 128 else 0)

/-- `Serialize(h)` (20 R73, R74). -/
def serialize (h : FrameHeader) : List Byte :=
  let plain := [headerByte0 h, lowByte h.length, highByte h.length]
  if h.udp then plain ++ h.ip.octets ++ [lowByte h.port, highByte h.port] else plain

/-- Bit 7 of the first byte of a record: a UDP-server record of 9 bytes (20 R73). -/
def recordUdp (b0 : Byte) : Bool := b0.getLsbD 7

/-- `Deserialize(bytes)` (20 R73); bits [6:4] of the first byte are ignored. A plain record has no address or port. -/
def deserialize (bytes : List Byte) : FrameHeader :=
  let at_ (k : Nat) : Byte := bytes.getD k 0
  let plain : FrameHeader :=
    ⟨Fin.ofNat 16 (at_ 0).toNat, halfOf (at_ 1) (at_ 2), recordUdp (at_ 0), IPv4.zero, 0⟩
  if recordUdp (at_ 0) then
    { plain with ip := ⟨at_ 3, at_ 4, at_ 5, at_ 6⟩, port := halfOf (at_ 7) (at_ 8) }
  else plain

/-! ## Reading and dropping -/

/-- POP_HEADER (42 R247). -/
def popHeader (s : State) : State :=
  let i := if skipNeeded s.cfg s.tailIdx then 0 else s.tailIdx
  let size := headerSize (recordUdp (s.ring.read i))
  { s with
    tail := deserialize (s.ring.readN i size)
    tailIdx := (i + size) % s.cfg.ringCap }

/-- DropUnit (42 R252): a payload byte of the tail frame, lost, or an exhausted record. -/
def dropUnit (s : State) : State :=
  if s.tail.length ≠ 0 then
    let e := s.connAt s.tail.cid
    ({ s with
        tailIdx := (s.tailIdx + 1) % s.cfg.ringCap
        tail := { s.tail with length := s.tail.length - 1 } }.setConn s.tail.cid { e with error := true }).emit .ringDrop
  else popHeader s

/-- The loop of DROP_OLDEST (42 R251), for at most `fuel` units. -/
def dropLoop (n : Nat) : Nat → State → State
  | 0, s => s
  | fuel + 1, s => if s.free < n ∧ 0 < s.used then dropLoop n fuel (dropUnit s) else s

/-- DROP_OLDEST (42 R251): each unit frees a cell at least, so that RING_CAP units are enough (log 11). -/
def dropOldest (n : Nat) (s : State) : State := dropLoop n s.cfg.ringCap s

/-- The loop of ADVANCE (42 R253), for at most `fuel` records. -/
def advanceLoop : Nat → State → State
  | 0, s => s
  | fuel + 1, s => if s.tail.length = 0 ∧ 0 < s.used then advanceLoop fuel (popHeader s) else s

/-- ADVANCE (42 R253): each record frees a cell at least, so that RING_CAP records are enough (log 11). -/
def advance (s : State) : State := advanceLoop s.cfg.ringCap s

/-- PEEK_BYTE (42 R248). -/
def peekByte (s : State) : Option Byte :=
  if s.tail.length ≠ 0 ∧ 0 < s.used then some (s.ring.read s.tailIdx) else none

/-- POP_BYTE (42 R249). -/
def popByte (s : State) : Option Byte × State :=
  if s.tail.length = 0 ∨ s.used = 0 then (none, s)
  else
    (some (s.ring.read s.tailIdx),
      { s with
        tailIdx := (s.tailIdx + 1) % s.cfg.ringCap
        tail := { s.tail with length := s.tail.length - 1 } })

/-- POP_BYTE repeated `k` times: the bytes it returned, in order (46 R433). -/
def popBytes : Nat → State → List Byte × State
  | 0, s => ([], s)
  | k + 1, s =>
    let (b, s) := popByte s
    let (bs, s) := popBytes k s
    (b.toList ++ bs, s)

/-- AVAILABLE_BYTES (42 R250). -/
def availableBytes (s : State) : Nat := if s.tail.length = 0 then 0 else min s.tail.length.toNat s.used

/-! ## Writing -/

/-- PUSH_HEADER (42 R244, R245). -/
def pushHeader (h : FrameHeader) (s : State) : State :=
  let size := headerSize h.udp
  let skip := if skipNeeded s.cfg s.headIdx then s.cfg.ringCap - s.headIdx else 0
  let s := dropOldest (skip + size) s
  let i := if 0 < skip then 0 else s.headIdx
  { s with
    ring := s.ring.writeList i (serialize h)
    headIdx := (i + size) % s.cfg.ringCap }

/-- PUSH_BYTE (42 R246). -/
def pushByte (b : Byte) (s : State) : State :=
  let s := dropOldest 1 s
  { s with
    ring := s.ring.write s.headIdx b
    headIdx := (s.headIdx + 1) % s.cfg.ringCap }

/-! ## The micro-operations (30 R120) -/

/-- PUSH_HEADER (code 0x83). -/
def execPushHeader (h : FrameHeader) (s : State) : Host.Outcome State Fault Refusal :=
  .next ((pushHeader h s).respond .none)

/-- PUSH_BYTE (code 0x84). -/
def execPushByte (b : Byte) (s : State) : Host.Outcome State Fault Refusal :=
  .next ((pushByte b s).respond .none)

/-- POP_HEADER (code 0x85). -/
def execPopHeader (s : State) : Host.Outcome State Fault Refusal :=
  let s := popHeader s
  .next (s.respond (.header s.tail))

/-- PEEK_BYTE (code 0x86). -/
def execPeekByte (s : State) : Host.Outcome State Fault Refusal :=
  .next (s.respond (.byte (peekByte s)))

/-- POP_BYTE (code 0x87). -/
def execPopByte (s : State) : Host.Outcome State Fault Refusal :=
  let (b, s) := popByte s
  .next (s.respond (.byte b))

/-- AVAILABLE_BYTES (code 0x88). -/
def execAvailableBytes (s : State) : Host.Outcome State Fault Refusal :=
  .next (s.respond (.count (availableBytes s)))

/-- DROP_OLDEST (code 0x89). -/
def execDropOldest (n : Byte) (s : State) : Host.Outcome State Fault Refusal :=
  .next ((dropOldest n.toNat s).respond .none)

/-- ADVANCE (code 0x8A). -/
def execAdvance (s : State) : Host.Outcome State Fault Refusal :=
  .next ((advance s).respond .none)

end Sys2Proof.Machine
end

