-- ==== Sys2Proof/Machine/Receive.lean ====
section
/-! DEFINITION. The receive state machine (41_receive_sm.md): RX_PROCESS, one arm for each value of `rxState`. -/

namespace Sys2Proof.Machine

/-- `ParseFail()` (41 R200): back to Idle, nothing else written. -/
def parseFail (s : State) : State := { s with scratchLen := 0, rxState := .idle }.emit .hdrParseFail

/-- Append a byte to the header scratch buffer (10 R38). -/
def pushScratch (b : Byte) (s : State) : State :=
  { s with scratch := s.scratch.write s.scratchLen b, scratchLen := s.scratchLen + 1 }

/-- `scratch[from .. from + n - 1]`. -/
def scratchSlice (s : State) (start n : Nat) : List Byte := s.scratch.readN start n

/-- A header that parsed becomes `head` and is pushed; a frame of length 0 has no payload (41 R193, R198; 90 C3). -/
def acceptHeader (h : FrameHeader) (s : State) : State :=
  { pushHeader h { s with head := h } with
    scratchLen := 0
    rxState := if h.length = 0 then .idle else .bulk }

/-- Idle arm (41 R191). -/
def rxIdle (b : Byte) (s : State) : RxResult × State :=
  if b = s.cfg.escChar then (.absorbed, { s with rxState := .escape }) else (.line b, s)

/-- ESC 'O' and ESC 'F' (41 R192): taken only while a write waits and has no answer yet. -/
def rxDataResp (r : DataResp) (s : State) : State :=
  if s.dataWait ∧ s.dataResp = .none then { s with dataResp := r } else s.emit .unsolicitedDataResponse

/-- Escape arm (41 R192). -/
def rxEscape (b : Byte) (s : State) : State :=
  let s := { s with scratchLen := 0 }
  if b = s.cfg.introZ then { s with rxState := .escapeZ }
  else if b = s.cfg.introA then { s with rxState := .escapeA }
  else if b = s.cfg.introY then { s with rxState := .escapeY1 }
  else if b = s.cfg.introOk then { rxDataResp .ok s with rxState := .idle }
  else if b = s.cfg.introFail then { rxDataResp .fail s with rxState := .idle }
  else if b = s.cfg.escChar then { s with rxState := .escape }
  else { s with rxState := .idle }.emit .unknownEscape

/-- EscapeZ arm (41 R193): one HEX CID and four DEC length digits. -/
def rxEscapeZ (b : Byte) (s : State) : State :=
  let s := pushScratch b s
  if s.scratchLen < 5 then s
  else
    match parseHexCid (s.scratch.read 0), parseDec16 (scratchSlice s 1 4) with
    | some c, some n => acceptHeader ⟨c, n, false, IPv4.zero, 0⟩ s
    | _, _ => parseFail s

/-- EscapeA arm (41 R194): one HEX subtype and two length digits of base ASYNC_LEN_BASE. -/
def rxEscapeA (b : Byte) (s : State) : State :=
  let s := pushScratch b s
  if s.scratchLen < 3 then s
  else
    match parseHexCid (s.scratch.read 0), parseInt (scratchSlice s 1 2) asyncLenBase 8 with
    | some t, some n =>
      let s := { s with scratchLen := 0 }
      if n = 0 then { (asyncDispatch t [] s).2 with rxState := .idle }
      else { s with asyncSubtype := t, asyncLen := n, asyncCount := 0, rxState := .async }
    | _, _ => parseFail s

/-- Async arm (41 R195): the body is dispatched when the declared count is reached. -/
def rxAsync (b : Byte) (s : State) : State :=
  let s := { s with asyncBuf := s.asyncBuf.write s.asyncCount b, asyncCount := s.asyncCount + 1 }
  if s.asyncCount = s.asyncLen then
    { (asyncDispatch s.asyncSubtype (s.asyncBuf.readN 0 s.asyncLen) s).2 with asyncCount := 0, rxState := .idle }
  else s

/-- The address of UDP-server field 1 (41 R196): exactly four groups. -/
def parseFullIp (chars : List Byte) : Option IPv4 :=
  match parseIp chars with
  | some a => if a.groups = 4 then some a.ip else none
  | none => none

/-- EscapeY1 arm (41 R196): HEX CID and dotted address, ended by SP. That SP ends this field is 30 R106's
general-knowledge value (93 K5), a constant of the model (PRESUMED, log 23). -/
def rxEscapeY1 (b : Byte) (s : State) : State :=
  if b = chSP then
    if s.scratchLen < 2 then parseFail s
    else
      match parseHexCid (s.scratch.read 0), parseFullIp (scratchSlice s 1 (s.scratchLen - 1)) with
      | some c, some ip => { s with yCid := c, yIp := ip, scratchLen := 0, rxState := .escapeY2 }
      | _, _ => parseFail s
  else if s.scratchLen = scratchSize then parseFail s
  else pushScratch b s

/-- EscapeY2 arm (41 R197): decimal port, ended by HT. That HT ends this field is 30 R106's
general-knowledge value (93 K5), a constant of the model (PRESUMED, log 23). -/
def rxEscapeY2 (b : Byte) (s : State) : State :=
  if b = chHT then
    if s.scratchLen = 0 then parseFail s
    else
      match parseDec16 (scratchSlice s 0 s.scratchLen) with
      | some p => { s with yPort := p, scratchLen := 0, rxState := .escapeY3 }
      | none => parseFail s
  else if s.scratchLen = 5 then parseFail s
  else pushScratch b s

/-- EscapeY3 arm (41 R198): four DEC length digits. -/
def rxEscapeY3 (b : Byte) (s : State) : State :=
  let s := pushScratch b s
  if s.scratchLen < 4 then s
  else
    match parseDec16 (scratchSlice s 0 4) with
    | some n => acceptHeader ⟨s.yCid, n, true, s.yIp, s.yPort⟩ s
    | none => parseFail s

/-- Bulk arm (41 R199): every byte value is payload. -/
def rxBulk (b : Byte) (s : State) : State :=
  let s := pushByte b s
  let n := s.head.length - 1
  { s with
    head := { s.head with length := n }
    rxState := if n = 0 then .idle else s.rxState }

/-- RX_PROCESS (41 R190): the arm of the current state. -/
def rxProcess (b : Byte) (s : State) : RxResult × State :=
  match s.rxState with
  | .idle => rxIdle b s
  | .escape => (.absorbed, rxEscape b s)
  | .escapeZ => (.absorbed, rxEscapeZ b s)
  | .escapeA => (.absorbed, rxEscapeA b s)
  | .escapeY1 => (.absorbed, rxEscapeY1 b s)
  | .escapeY2 => (.absorbed, rxEscapeY2 b s)
  | .escapeY3 => (.absorbed, rxEscapeY3 b s)
  | .async => (.absorbed, rxAsync b s)
  | .bulk => (.absorbed, rxBulk b s)

/-- RX_PROCESS as a micro-operation (code 0x82). -/
def execRxProcess (b : Byte) (s : State) : Host.Outcome State Fault Refusal :=
  let (x, s) := rxProcess b s
  .next (s.respond (.rx x))

end Sys2Proof.Machine
end

