-- ==== Sys2Proof/Machine/HostOps.lean ====
section
/-! DEFINITION. The host operations that do not wait on the link (46_host_ops.md): the receive path, the read side, the
service call, the lifecycle and STATUS. -/

namespace Sys2Proof.Machine

/-! ## Driving the receive path (46 R420, R421) -/

/-- What the internal `Poll()` answers. -/
inductive PollResult where
  | byte
  | noByte
  | dead
deriving DecidableEq, Repr

/-- `Poll()` (46 R420): a line byte is discarded. -/
def pollOnce (s : State) : PollResult × State :=
  let (r, s) := codecRecv s
  if s.unrecoverable then (.dead, s)
  else
    match r with
    | none => (.noByte, s)
    | some b => (.byte, (rxProcess b s).2)

/-- `Prepare()` (46 R421): whether the block is still alive, and the state. -/
def prepare (s : State) : Bool × State :=
  let s := advance s
  if availableBytes s = 0 then
    let (p, s) := pollOnce s
    if p = .dead then (false, s) else (true, advance s)
  else (true, s)

/-- The read operations after the gate (46 R430 to R436): `Prepare()`, and its DEAD answer. -/
def State.prepared (s : State) (operation : State → State) : State :=
  let (alive, s) := prepare s
  if alive then operation s else s.hostCode .errUnrecoverable

/-- The tests of PEEK, READ and READ_BUF after `Prepare()` (46 R430, 60 R487): EMPTY, then NO_DATA_OTHER_CID. -/
def State.forCid (s : State) (c : Cid) (operation : State → State) : State :=
  if s.tail.length = 0 then s.hostCode .empty
  else if s.tail.cid ≠ c then s.hostCode .noDataOtherCid
  else operation s

/-- Answer a byte after other outputs, or EMPTY if there is none (46 R430 to R432). -/
def State.answerByte (s : State) (outputs : List Byte) (v : Option Byte) : State :=
  match v with
  | some b => s.hostOk (outputs ++ [b])
  | none => s.hostCode .empty

/-- POLL (46 R420). -/
def execPoll (s : State) : Host.Outcome State Fault Refusal :=
  .next (s.gated fun s =>
    let (p, s) := pollOnce s
    match p with
    | .byte => s.hostOk []
    | .noByte => s.hostCode .errNoByte
    | .dead => s.hostCode .errUnrecoverable)

/-! ## Read side -/

/-- PEEK (46 R430). -/
def execPeek (cid : Byte) (s : State) : Host.Outcome State Fault Refusal :=
  .next (s.gated fun s => s.withOperand (cidOperand cid) fun c => s.prepared fun s => s.forCid c fun s =>
    s.answerByte [] (peekByte s))

/-- READ (46 R431). -/
def execRead (cid : Byte) (s : State) : Host.Outcome State Fault Refusal :=
  .next (s.gated fun s => s.withOperand (cidOperand cid) fun c => s.prepared fun s => s.forCid c fun s =>
    let (v, s) := popByte s
    s.answerByte [] v)

/-- READ_ANY (46 R432). -/
def execReadAny (s : State) : Host.Outcome State Fault Refusal :=
  .next (s.gated fun s => s.prepared fun s =>
    if s.tail.length = 0 then s.hostCode .empty
    else
      let c := s.tail.cid
      let (v, s) := popByte s
      s.answerByte [cidByte c] v)

/-- READ_BUF (46 R433): at most the buffered bytes of the tail frame. -/
def execReadBuf (cid : Byte) (n : Half) (s : State) : Host.Outcome State Fault Refusal :=
  .next (s.gated fun s => s.withOperand (cidOperand cid) fun c => s.prepared fun s => s.forCid c fun s =>
    let k := min n.toNat (availableBytes s)
    let (out, s) := popBytes k s
    s.hostOk (countBytes k ++ out))

/-- FIRST_CID (46 R434). -/
def execFirstCid (s : State) : Host.Outcome State Fault Refusal :=
  .next (s.gated fun s => s.prepared fun s =>
    if s.tail.length = 0 ∨ availableBytes s = 0 then s.hostCode .empty else s.hostOk [cidByte s.tail.cid])

/-- AVAILABLE (46 R435). -/
def execAvailable (cid : Byte) (s : State) : Host.Outcome State Fault Refusal :=
  .next (s.gated fun s => s.withOperand (cidOperand cid) fun c => s.prepared fun s =>
    if s.tail.length = 0 ∨ s.tail.cid ≠ c then s.hostOk (countBytes 0) else s.hostOk (countBytes (availableBytes s)))

/-- AVAILABLE_ANY (46 R436). -/
def execAvailableAny (s : State) : Host.Outcome State Fault Refusal :=
  .next (s.gated fun s => s.prepared fun s => s.hostOk (countBytes (availableBytes s)))

/-! ## Service (46 R455) -/

/-- The loop of SERVICE, for at most `n` more bytes: whether the block is still alive, and the state. -/
def serviceLoop : Nat → State → Bool × State
  | 0, s => (true, s)
  | n + 1, s =>
    let (p, s) := pollOnce s
    match p with
    | .dead => (false, s)
    | .noByte => (true, s)
    | .byte => if s.rxState = .bulk then (true, s) else serviceLoop n s

/-- SERVICE (46 R455). -/
def execService (s : State) : Host.Outcome State Fault Refusal :=
  .next (s.gated fun s =>
    let (alive, s) := serviceLoop s.cfg.serviceMaxIter s
    if alive then (clearEvents s).hostOk [eventByte s, cidByte s.ncmCid] else s.hostCode .errUnrecoverable)

/-! ## Lifecycle and status -/

/-- START (46 R460). -/
def execStart (mode : Byte) (s : State) : Host.Outcome State Fault Refusal :=
  .next (if s.lifecycle ≠ .stopped then s.hostCode .errAlreadyStarted
    else s.withOperand (modeOperand mode) fun m => { s.startInit m with lifecycle := .starting }.hostOk [])

/-- START_DONE (46 R461), with the ruling of 90 C4 (60 R486): a dead block answers ERR_UNRECOVERABLE, RUNNING or not. An
`ok` above 1 is ERR_BAD_OPERAND, tested last (30 R118, 60 R487; DEDUCED, log 10). -/
def execStartDone (ok : Byte) (s : State) : Host.Outcome State Fault Refusal :=
  .next (s.gated fun s =>
    if s.lifecycle = .running then s.hostCode .errAlreadyStarted
    else s.withOperand (bitOperand ok) fun done =>
      if done then { s with lifecycle := .running }.hostOk [] else s.stopInit.hostOk [])

/-- STOP (46 R462). -/
def execStop (s : State) : Host.Outcome State Fault Refusal := .next (s.stopInit.hostOk [])

/-- STATUS (46 R463). -/
def execStatus (s : State) : Host.Outcome State Fault Refusal := .next (s.hostOk (halfBytes (statusWord s)))

end Sys2Proof.Machine
end

