-- ==== Sys2Proof/Machine/Parsers.lean ====
section
/-! DEFINITION. The parser and formatter micro-operations (45_parsers.md R390, R393, R395); the functions themselves are
in Machine/Operands.lean. None writes a register. -/

namespace Sys2Proof.Machine

/-- PARSE_INT (code 0x95). -/
def execParseInt (base : Byte) (width : IntWidth) (chars : List Byte) (s : State) : Host.Outcome State Fault Refusal :=
  .next (s.respond (.number (parseInt chars base.toNat (widthBits width))))

/-- PARSE_IP (code 0x96). -/
def execParseIp (chars : List Byte) (s : State) : Host.Outcome State Fault Refusal :=
  .next (s.respond (.address (parseIp chars)))

/-- FORMAT_FIELDS (code 0x97). -/
def execFormatFields (form : FormatArg) (s : State) : Host.Outcome State Fault Refusal :=
  .next (s.respond (.text (formatFields s.cfg form)))

end Sys2Proof.Machine
end

