-- ==== Sys2Proof/Machine/Waits.lean ====
section
/-! DEFINITION. The operations that wait on the link (log 6): the pause wait of CODEC_SEND (40_bus_codec.md R151, R153),
the loop of READ_RESPONSE (43_correlator.md R303) and the loop of WAIT_DATA_RESP (46_host_ops.md R443), with what calls
them. An operation in progress is the plain data `State.activity`; one pass is one turn of its loop; `runActivity` runs
passes until the operation ends or a number of them is used up, and the next step goes on from there. A wait without end
(93 U10, U11) is a run of steps in which the operation never ends. -/

namespace Sys2Proof.Machine

/-! ## Sending (40 R151) -/

/-- CODEC_SEND of successive bytes, until none is left, the block is dead, or a pause begins: the bytes not sent, and
the state. -/
def sendBytes : List Byte → State → List Byte × State
  | [], s => ([], s)
  | b :: rest, s =>
    if s.unrecoverable then (b :: rest, s)
    else if s.linkMode = .bus ∧ s.paused then (b :: rest, s)
    else sendBytes rest (sendByte b s)

/-! ## Frame writes (46 R440 to R443) -/

/-- WRITE_FRAME up to its sending loop (46 R442): the header and the data are to be sent. -/
def beginFrame (cid : Cid) (addr : Option NetAddr) (data : List Byte) (caller : FrameCaller) (s : State) : State :=
  let hdr := match addr with
    | none => encodeTxHeader s.cfg cid data.length
    | some a => encodeTxAddr s.cfg cid a data.length
  { s with dataResp := .none, dataWait := true }.beginActivity (.send (hdr ++ data) (.frame caller))

/-- The loop of WRITE before its next frame (46 R440): the end of the data, a CID that is not connected, or a frame. -/
def writeNext (cid : Cid) (addr : Option NetAddr) (data : List Byte) (frames : Nat) (s : State) : State :=
  if data = [] then s.finish (.record (ResultCode.ok.byte :: countBytes frames))
  else if (s.connAt cid).connected then
    beginFrame cid addr (data.take maxFrame) (.write cid addr (data.drop maxFrame) frames) s
  else s.finish (.record [ResultCode.errNotConnected.byte])

/-- The end of WRITE_FRAME or WAIT_DATA_RESP with a code: `dataWait` falls unless the wait was called alone (46 R442),
and WRITE goes on after OK and stops after any other code (46 R440, R444). -/
def frameDone (caller : FrameCaller) (c : ResultCode) (s : State) : State :=
  match caller with
  | .wait => s.finish (.code c)
  | .frame => { s with dataWait := false }.finish (.code c)
  | .write cid addr rest frames =>
    let s := { s with dataWait := false }
    if c = .ok then writeNext cid addr rest (frames + 1) s else s.finish (.record [c.byte])

/-! ## Sending as an activity -/

/-- Every byte is sent: what follows. -/
def sendDone (k : SendThen) (s : State) : State :=
  match k with
  | .codec => s.finish (.code .ok)
  | .command => s.finish (.record [ResultCode.ok.byte])
  | .commandExpectOk =>
    { s with line := LineState.fresh .discard s.cfg.lineBufInternal }.beginActivity (.response true)
  | .frame caller =>
    if s.cfg.awaitDataResponse then { s with activity := some (.dataWait caller) } else frameDone caller .ok s

/-- CODEC_SEND answered ERR_UNRECOVERABLE: what follows. -/
def sendFailed (k : SendThen) (s : State) : State :=
  match k with
  | .codec => s.finish (.code .errUnrecoverable)
  | .command => s.finish (.record [ResultCode.errUnrecoverable.byte])
  | .commandExpectOk => s.finish (.record [ResultCode.errUnrecoverable.byte])
  | .frame caller => frameDone caller .errUnrecoverable s

/-- One pass of sending: a pause exchange, or the bytes up to the next pause. -/
def passSend (tx : List Byte) (k : SendThen) (s : State) : State :=
  if s.unrecoverable then sendFailed k s
  else if s.linkMode = .bus ∧ s.paused ∧ tx ≠ [] then
    let s := exchangeOut s.cfg.busIdle s
    if s.unrecoverable then sendFailed k s else s
  else
    let (left, s) := sendBytes tx s
    if s.unrecoverable then sendFailed k s
    else if left = [] then sendDone k s
    else { s with activity := some (.send left k) }

/-! ## READ_RESPONSE (43 R301, R303) -/

/-- The side effects of a code that READ_RESPONSE read (43 R301). -/
def responseEffect (name : RespName) (args : List Cid) (s : State) : State :=
  match name with
  | .linkLost => disassocCascade s
  | .conSuccess => connConnectPlain (firstArg args) s
  | _ => s

/-- The operation ends: its line state is discarded (43 R291, log 20). -/
def State.endResponse (s : State) (record : List Byte) : State :=
  { s with line := LineState.fresh .discard s.cfg.lineBufInternal }.finish (.record record)

/-- READ_RESPONSE ends with an error code: only the code is returned (43 R305). -/
def responseFailed (s : State) : State := s.endResponse [ResultCode.errUnrecoverable.byte]

/-- READ_RESPONSE ends with a code (43 R303, R305), or SEND_COMMAND_EXPECT_OK with its `ok` byte (43 R308). -/
def responseDone (expectOk : Bool) (c : Nat) (name : RespName) (args : List Cid) (s : State) : State :=
  let outputs := if expectOk then [flagByte (decide (name = .success))] else responseRecord s.line c args
  (responseEffect name args s).endResponse (ResultCode.ok.byte :: outputs)

/-- A line byte inside READ_RESPONSE (43 R303, R304). -/
def responseLine (expectOk : Bool) (b : Byte) (s : State) : State :=
  let (r, l) := respStep s.cfg b s.line
  let s := { s with line := l }
  match r with
  | .more => s
  | .done c name args => responseDone expectOk c name args s

/-- One pass of READ_RESPONSE's loop (43 R303). -/
def passResponse (expectOk : Bool) (s : State) : State :=
  let (r, s) := codecRecv s
  if s.unrecoverable then responseFailed s
  else
    match r with
    | none =>
      let (e, s) := expired s
      if e then responseFailed (s.setFatal .responseTimeout) else s
    | some b =>
      let (x, s) := rxProcess b s
      match x with
      | .absorbed => s
      | .line c => responseLine expectOk c s

/-! ## WAIT_DATA_RESP (46 R443) -/

/-- One pass of WAIT_DATA_RESP's loop (46 R443); line bytes are discarded (43 R290). -/
def passDataWait (caller : FrameCaller) (s : State) : State :=
  match s.dataResp with
  | .ok => frameDone caller .ok s
  | .fail => frameDone caller .errDataRejected s
  | .none =>
    let (r, s) := codecRecv s
    if s.unrecoverable then frameDone caller .errUnrecoverable s
    else
      match r with
      | none =>
        let (e, s) := expired s
        if e then frameDone caller .errUnrecoverable (s.setFatal .dataResponseTimeout) else s
      | some b => (rxProcess b s).2

/-! ## Running an activity (log 6) -/

/-- One pass of the operation in progress. -/
def pass (a : Activity) (s : State) : State :=
  match a with
  | .send tx k => passSend tx k s
  | .response expectOk => passResponse expectOk s
  | .dataWait caller => passDataWait caller s

/-- Run at most `n` passes of the operation in progress. -/
def runActivity : Nat → State → State
  | 0, s => s
  | n + 1, s =>
    match s.activity with
    | none => s
    | some a => runActivity n (pass a s)

/-- The bytes an operation in progress still has to send. -/
def Activity.outstanding : Activity → Nat
  | .send tx (.frame (.write _ _ rest _)) => tx.length + rest.length
  | .send tx _ => tx.length
  | .response _ => 0
  | .dataWait (.write _ _ rest _) => rest.length
  | .dataWait _ => 0

/-- How many passes one step runs: enough to use every answer the environment has given and send every byte. -/
def State.budget (s : State) : Nat :=
  s.env.answersLeft + (s.activity.elim 0 Activity.outstanding) + 8

/-- Go on with the operation in progress. -/
def State.resume (s : State) : State := runActivity s.budget s

/-! ## The operations that start one -/

/-- CODEC_SEND (code 0x80; 40 R151). -/
def execCodecSend (b : Byte) (s : State) : Host.Outcome State Fault Refusal :=
  .next (s.beginActivity (.send [b] .codec)).resume

/-- SEND_COMMAND (43 R307): the text as given, then CR LF (30 R110, 93 K6: a constant of the model, PRESUMED, log
23). -/
def execSendCommand (text : List Byte) (s : State) : Host.Outcome State Fault Refusal :=
  .next (s.gated fun s => (s.beginActivity (.send (text ++ [chCR, chLF]) .command)).resume)

/-- SEND_COMMAND_EXPECT_OK (43 R308); CR LF as for SEND_COMMAND (log 23). -/
def execSendCommandExpectOk (text : List Byte) (s : State) : Host.Outcome State Fault Refusal :=
  .next (s.gated fun s => (s.beginActivity (.send (text ++ [chCR, chLF]) .commandExpectOk)).resume)

/-- READ_RESPONSE (43 R303): a RAW buffer must be longer than MAX_RESP_LEN. -/
def execReadResponse (rmode : Byte) (n : Half) (s : State) : Host.Outcome State Fault Refusal :=
  .next (s.gated fun s => s.withOperand (rmodeOperand rmode) fun mode =>
    if mode = .raw ∧ n.toNat < s.cfg.maxRespLen + 1 then s.hostCode .errBadOperand
    else
      let cap := if mode = .raw then n.toNat else s.cfg.lineBufInternal
      ({ s with line := LineState.fresh mode cap }.beginActivity (.response false)).resume)

/-- WRITE (46 R440). -/
def execWrite (cid : Byte) (data : List Byte) (s : State) : Host.Outcome State Fault Refusal :=
  .next (s.gated fun s => s.withOperand (cidOperand cid) fun c => (writeNext c none data 0 s).resume)

/-- WRITE_TO (46 R441). -/
def execWriteTo (cid : Byte) (ip : IPv4) (port : Half) (data : List Byte) (s : State) :
    Host.Outcome State Fault Refusal :=
  .next (s.gated fun s => s.withOperand (cidOperand cid) fun c => (writeNext c (some ⟨ip, port⟩) data 0 s).resume)

/-- WRITE_FRAME (code 0x98; 46 R442). -/
def execWriteFrame (cid : Cid) (addr : Option NetAddr) (data : List Byte) (s : State) :
    Host.Outcome State Fault Refusal :=
  .next (beginFrame cid addr data .frame s).resume

/-- WAIT_DATA_RESP (code 0x99; 46 R443). -/
def execWaitDataResp (s : State) : Host.Outcome State Fault Refusal :=
  .next (s.beginActivity (.dataWait .wait)).resume

end Sys2Proof.Machine
end

