-- ==== Sys2Proof/Machine/Dispatch.lean ====
section
/-! DEFINITION. The dispatch: one arm per row of spec/opcode_table.json, each one call of its meaning. -/

namespace Sys2Proof.Machine

/-- The meaning of an operation. -/
def exec (i : Instr) (s : State) : Host.Outcome State Fault Refusal :=
  match i with
  | .start mode => Sys2Proof.Machine.execStart mode s
  | .startDone ok => Sys2Proof.Machine.execStartDone ok s
  | .stop => Sys2Proof.Machine.execStop s
  | .service => Sys2Proof.Machine.execService s
  | .poll => Sys2Proof.Machine.execPoll s
  | .status => Sys2Proof.Machine.execStatus s
  | .peek cid => Sys2Proof.Machine.execPeek cid s
  | .read cid => Sys2Proof.Machine.execRead cid s
  | .readAny => Sys2Proof.Machine.execReadAny s
  | .readBuf cid n => Sys2Proof.Machine.execReadBuf cid n s
  | .firstCid => Sys2Proof.Machine.execFirstCid s
  | .available cid => Sys2Proof.Machine.execAvailable cid s
  | .availableAny => Sys2Proof.Machine.execAvailableAny s
  | .write cid data => Sys2Proof.Machine.execWrite cid data s
  | .writeTo cid ip port data => Sys2Proof.Machine.execWriteTo cid ip port data s
  | .sendCommand text => Sys2Proof.Machine.execSendCommand text s
  | .readResponse rmode n => Sys2Proof.Machine.execReadResponse rmode n s
  | .sendCommandExpectOk text => Sys2Proof.Machine.execSendCommandExpectOk text s
  | .connQuery cid => Sys2Proof.Machine.execConnQuery cid s
  | .connSet cid ip rport lport ssl => Sys2Proof.Machine.execConnSet cid ip rport lport ssl s
  | .assocQuery => Sys2Proof.Machine.execAssocQuery s
  | .assocSet => Sys2Proof.Machine.execAssocSet s
  | .codecSend b => Sys2Proof.Machine.execCodecSend b s
  | .codecRecv => Sys2Proof.Machine.execCodecRecv s
  | .rxProcess b => Sys2Proof.Machine.execRxProcess b s
  | .pushHeader h => Sys2Proof.Machine.execPushHeader h s
  | .pushByte b => Sys2Proof.Machine.execPushByte b s
  | .popHeader => Sys2Proof.Machine.execPopHeader s
  | .peekByte => Sys2Proof.Machine.execPeekByte s
  | .popByte => Sys2Proof.Machine.execPopByte s
  | .availableBytes => Sys2Proof.Machine.execAvailableBytes s
  | .dropOldest n => Sys2Proof.Machine.execDropOldest n s
  | .advance => Sys2Proof.Machine.execAdvance s
  | .classifyLine line => Sys2Proof.Machine.execClassifyLine line s
  | .respStep c => Sys2Proof.Machine.execRespStep c s
  | .asyncDispatch subtype body => Sys2Proof.Machine.execAsyncDispatch subtype body s
  | .connConnect cid ip rport lport ssl => Sys2Proof.Machine.execConnConnect cid ip rport lport ssl s
  | .connDisconnect cid => Sys2Proof.Machine.execConnDisconnect cid s
  | .connFail cid => Sys2Proof.Machine.execConnFail cid s
  | .disassocCascade => Sys2Proof.Machine.execDisassocCascade s
  | .assocUpdate => Sys2Proof.Machine.execAssocUpdate s
  | .ncmConnect cid => Sys2Proof.Machine.execNcmConnect cid s
  | .takeEvents => Sys2Proof.Machine.execTakeEvents s
  | .parseInt base width chars => Sys2Proof.Machine.execParseInt base width chars s
  | .parseIp chars => Sys2Proof.Machine.execParseIp chars s
  | .formatFields form => Sys2Proof.Machine.execFormatFields form s
  | .writeFrame cid addr data => Sys2Proof.Machine.execWriteFrame cid addr data s
  | .waitDataResp => Sys2Proof.Machine.execWaitDataResp s

end Sys2Proof.Machine
end

