-- ==== Sys2Proof/Machine/Fetch.lean ====
section
/-! DEFINITION. How a step takes its operation: the words on the ports (00_scope.md R8, 30_encoding.md R117), the first
step of the gate (46_host_ops.md R464), and the check that every counter fits its register (log 16). -/

namespace Sys2Proof.Machine

/-- The bound on `scratchLen` in each receive state: the header states store below it (41 R193 to R198). -/
def scratchBound : RxState → Nat
  | .escapeZ => 4
  | .escapeA => 2
  | .escapeY1 => 16
  | .escapeY2 => 5
  | .escapeY3 => 3
  | .idle => 16
  | .escape => 16
  | .async => 16
  | .bulk => 16

/-- Every counter and cursor holds a value of its register (10 R36, R38, R39, R43), so that every access is to a cell
that exists (20 R84). -/
def State.registersOk (s : State) : Bool :=
  decide (s.headIdx < s.cfg.ringCap) && decide (s.tailIdx < s.cfg.ringCap)
    && decide (s.allOnesRun ≤ allOnesLimit) && decide (s.scratchLen ≤ scratchBound s.rxState)
    && (decide (s.rxState ≠ .async) || (decide (s.asyncCount < s.asyncLen) && decide (s.asyncLen ≤ asyncMax)))

/-- What the ports hold for the next step. -/
inductive Fetched where
  /-- no word is waiting -/
  | idle
  /-- a host word whose opcode is illegal, and the state with its answer -/
  | illegal (s : State)
  /-- an operation, and the state with its word taken -/
  | run (i : Instr) (s : State)
  /-- bytes that are no operation word (log 9) -/
  | bad (why : DecodeError)

/-- Take the first word: an illegal host opcode, micro codes included, is answered ERR_ILLEGAL_OP with no other state
written (46 R464 step 1, 30 R119, R120). -/
def fetch (s : State) : Fetched :=
  match s.port with
  | [] => .idle
  | r :: rest =>
    match decode r.port r.word with
    | .ok i => .run i { s with port := rest }
    | .error .illegalOpcode =>
      match r.port with
      | .host => .illegal ({ s with port := rest }.hostCode .errIllegalOp)
      | .micro => .bad .illegalOpcode
    | .error e => .bad e

end Sys2Proof.Machine
end

