-- ==== Sys2Proof/Machine/Step.lean ====
section
/-! DEFINITION. One step of the block: the operation in progress goes on, or the next operation word is taken and run
(00_scope.md R7, R8; logs 6, 7). -/

namespace Sys2Proof.Machine

/-- One step. The parameters are checked first (00 R13, log 17), then the counters (log 16); with no operation in
progress and no word waiting the block waits for the host (70 R520). -/
def step (s : State) : Host.Outcome State Fault Refusal :=
  if s.cfg.valid then
    if s.registersOk then
      match s.activity with
      | some _ => .next s.resume
      | none =>
        match fetch s with
        | .idle => .next s
        | .illegal t => .next t
        | .run i t => exec i t
        | .bad why => .refused (.notAnOperationWord why)
    else .fault .registerOutOfRange
  else .refused .invalidConfig

/-- The state with a table word presented first on the port it belongs to, and no operation in progress, so that the
next step takes it (log 7). -/
def State.withFetchWord (s : State) (nbits w : Nat) : State :=
  { s with activity := none, port := ⟨tablePort w, tableWord nbits w⟩ :: s.port }

end Sys2Proof.Machine
end

