-- ==== Sys2Proof/Safety.lean ====
section
/-! DEFINITION. The terms that statements about the block use: the invariant of its registers, the structure of the ring
(42_ring_buffer.md R242), which operations pass the gate, and short runs of one operation. -/

namespace Sys2Proof.Machine

/-! ## The invariant of the registers -/

/-- What every step keeps, whatever words and answers come in: the parameters satisfy 00 R13, every register holds a
value of its range, and the registers agree with one another as 10_state.md says. -/
structure State.Inv (s : State) : Prop where
  /-- 00 R13 -/
  config : s.cfg.valid = true
  /-- 10 R36, R38, R39, R43 -/
  counters : s.registersOk = true
  /-- the canonical form of the ring, and its C cells (20 R71) -/
  ring_form : s.ring.wf = true
  ring_cells : s.ring.within s.cfg.ringCap = true
  /-- the 16 cells of `scratch` (10 R38) -/
  scratch_form : s.scratch.wf = true
  scratch_cells : s.scratch.within scratchSize = true
  /-- the 99 cells of `asyncBuf` (10 R39) -/
  async_form : s.asyncBuf.wf = true
  async_cells : s.asyncBuf.within asyncMax = true
  /-- 10 R41 -/
  bulk_head : s.rxState = .bulk ↔ s.head.length ≠ 0
  /-- 10 R33, 60 R485 -/
  fatal_cause : s.unrecoverable = true ↔ s.fatalCause ≠ .none
  /-- 40 R156 -/
  storm_dead : s.allOnesRun = allOnesLimit → s.unrecoverable = true
  /-- 40 R152 -/
  stream_codec : s.linkMode = .stream → s.paused = false ∧ s.escPending = false ∧ s.allOnesRun = 0
  /-- 44 R349: a pending association event is the last change of `associated` -/
  assoc_pending : (s.assocPending = .associated → s.associated = true)
    ∧ (s.assocPending = .disassociated → s.associated = false)
  /-- 44 R350: a pending NCM event is the last change of `ncmCid.valid` -/
  ncm_pending : (s.ncmPending = .connected → s.ncmValid = true)
    ∧ (s.ncmPending = .disconnected → s.ncmValid = false)
  /-- 44 R344, R348 -/
  ncm_connected : s.ncmValid = true → (s.connAt s.ncmCid).connected = true
  /-- 43 R291 -/
  line_start : s.line.start ≤ s.line.buf.length
  line_room : s.line.buf.length ≤ s.line.cap
  line_cap : s.cfg.maxRespLen + 1 ≤ s.line.cap
  line_raw : s.line.mode ≠ .raw → s.line.start = 0
  line_callback : s.line.mode ≠ .callback → s.line.lines = []

/-! ## The structure of the ring (42 R242) -/

/-- How many dead cells lie before a record that is written or read at the index `i` (42 R244). -/
def deadCells (cfg : Config) (i : Nat) : Nat := if skipNeeded cfg i then cfg.ringCap - i else 0

/-- Where a record written or read at the index `i` starts. -/
def recordStart (cfg : Config) (i : Nat) : Nat := if skipNeeded cfg i then 0 else i

/-- The record that starts at the index `j`. -/
def recordAt (ring : Memory) (j : Nat) : FrameHeader :=
  deserialize (ring.readN j (headerSize (recordUdp (ring.read j))))

/-- I1 and I2: the `u` occupied cells from the index `i` are records, each with its dead cells before it and its payload
after it; `missing` bytes of the last frame have not arrived. -/
inductive Records (cfg : Config) (ring : Memory) (missing : Nat) : Nat → Nat → Prop where
  /-- no record is left, and no frame is in flight -/
  | none (i : Nat) (whole : missing = 0) : Records cfg ring missing i 0
  /-- a record with its whole payload, and records after it -/
  | whole (i u : Nat) (h : FrameHeader) (at_start : h = recordAt ring (recordStart cfg i))
      (fits : deadCells cfg i + headerSize h.udp + h.length.toNat ≤ u)
      (rest : Records cfg ring missing ((recordStart cfg i + headerSize h.udp + h.length.toNat) % cfg.ringCap)
        (u - (deadCells cfg i + headerSize h.udp + h.length.toNat))) : Records cfg ring missing i u
  /-- the record of the frame in flight, and the part of its payload that has arrived -/
  | partly (i u : Nat) (h : FrameHeader) (at_start : h = recordAt ring (recordStart cfg i))
      (fits : deadCells cfg i + headerSize h.udp ≤ u) (in_flight : 0 < missing)
      (arrived : u - (deadCells cfg i + headerSize h.udp) + missing = h.length.toNat) : Records cfg ring missing i u

/-- How many payload bytes of the frame in flight have not arrived (42 R242, I2 and I3). -/
def State.missing (s : State) : Nat := if s.rxState = .bulk then s.head.length.toNat else 0

/-- I1 to I5: the rest of the tail frame, then records; or only the tail frame, which is then the frame in flight. -/
def State.RingOk (s : State) : Prop :=
  (s.tail.length.toNat ≤ s.used
    ∧ Records s.cfg s.ring s.missing ((s.tailIdx + s.tail.length.toNat) % s.cfg.ringCap)
        (s.used - s.tail.length.toNat))
  ∨ (s.used < s.tail.length.toNat ∧ s.tail.length.toNat = s.used + s.missing)

/-! ## Words for hypotheses -/

/-- The gate's steps 3 and 4 let an operation through (46 R464): the block is started and not dead. -/
def State.alive (s : State) : Prop := s.lifecycle ≠ .stopped ∧ s.unrecoverable = false

/-- Bytes that are neither ESC_CHAR nor a terminator: in Idle, the bytes of a line (30 R109, R110). -/
def isLineText (cfg : Config) (text : List Byte) : Prop :=
  ∀ b ∈ text, b ≠ cfg.escChar ∧ b ≠ chCR ∧ b ≠ chLF

/-- The sequence introducers differ from one another and from ESC_CHAR, as their values of 00 R12 do. -/
def lettersDiffer (cfg : Config) : Prop :=
  [cfg.introZ, cfg.introA, cfg.introY, cfg.introOk, cfg.introFail, cfg.escChar].Nodup

/-- A frame header as the receive state machine makes one: a plain frame has no address and no port (41 R193). -/
def plainIsBare (h : FrameHeader) : Prop := h.udp = false → h.ip = IPv4.zero ∧ h.port = 0

/-- Nothing is buffered and no frame is live: where frames arrive in an empty ring (42 R243, R253). -/
def State.ringEmpty (s : State) : Prop := s.headIdx = s.tailIdx ∧ s.tail.length = 0

/-! ## Short runs -/

/-- The state after an operation (every operation answers a next state). -/
def after (i : Instr) (s : State) : State :=
  match exec i s with
  | .next t => t
  | .fault _ => s
  | .refused _ => s

/-- An operation `n` times in a row. -/
def afterTimes (i : Instr) : Nat → State → State
  | 0, s => s
  | n + 1, s => afterTimes i n (after i s)

/-- RX_PROCESS for each of the bytes, in order. -/
def feed : List Byte → State → State
  | [], s => s
  | b :: bs, s => feed bs (after (.rxProcess b) s)

/-- RESP_STEP for each of the bytes, in order. -/
def feedLine : List Byte → State → State
  | [], s => s
  | b :: bs, s => feedLine bs (after (.respStep b) s)

/-- The frames of a WRITE: `k` times at most MAX_FRAME bytes, in order (46 R440). -/
def framesOf : Nat → List Byte → List (List Byte)
  | 0, _ => []
  | k + 1, data => data.take maxFrame :: framesOf k (data.drop maxFrame)

/-- How many frames data needs: ceil(len / 1400) (46 R444). -/
def frameCount (data : List Byte) : Nat := (data.length + (maxFrame - 1)) / maxFrame

/-- The bytes of one frame: its header (45 R395), then its payload. -/
def frameBytes (cfg : Config) (cid : Cid) (addr : Option NetAddr) (data : List Byte) : List Byte :=
  match addr with
  | none => encodeTxHeader cfg cid data.length ++ data
  | some a => encodeTxAddr cfg cid a data.length ++ data

/-! ## Values the parsers read -/

/-- The number that characters spell in a base, most significant first, if all are digits of it (45 R390, R391). -/
def spelledIn (base : Nat) : List Byte → Nat → Option Nat
  | [], v => some v
  | ch :: rest, v =>
    match digitValue ch with
    | some d => if d < base then spelledIn base rest (v * base + d) else none
    | none => none

end Sys2Proof.Machine

namespace Sys2Proof

/-- The host operations of the gate's steps 3 and 4 (46 R464): all but START, START_DONE, STOP and STATUS. -/
def Instr.gated (i : Instr) : Bool :=
  match i with
  | .start _ | .startDone _ | .stop | .status => false
  | i => decide (i.port = .host)

end Sys2Proof
end

