-- ==== Sys2Proof/Certificates/Slice0/Obligations.lean ====
section
/-! DEFINITION. The statements for the provers, from the numbered rules of spec/: encodings, the machine as a whole, the
lifecycle and the gate, the codec, the receive state machine, the ring, the correlator, the events, the parsers and the
host operations. `exec i s = .next { s with … }` gives an operation's result and its frame at once. -/

open Sys2Proof Sys2Proof.Machine

/-! ## Encodings -/

/-- Decoding the word of a well-formed operation gives the operation, on the port that takes it (30 R117, R118; the
layout of a micro word is the model's, log 8). -/
def Obligations.DecodeOfEncode : Prop :=
  ∀ i : Instr, i.wellFormed = true → decode i.port (encode i) = .ok i

/-- A word the decoder accepts is the word that `encode` gives the operation it reads, which is well formed and belongs to
the port the word came on: no bit of a word is ignored, and no operation has two accepted words (30 R117, R118). That a
word with bytes left over is not accepted is the model's choice (log 9), and so is the layout of micro words (log 8). -/
def Obligations.EncodeOfDecode : Prop :=
  ∀ (port : PortKind) (word : List Byte) (i : Instr), decode port word = .ok i →
    encode i = word ∧ i.wellFormed = true ∧ i.port = port

/-- Words written out byte by byte decode to their operations: the host words from 30 R117 to R119, the two micro words by
their code of 30 R120 and the model's layout of their operands (log 8). -/
def Obligations.WordsWrittenOut : Prop :=
  decode .host [0x01, 0x00] = .ok (.start 0)
    ∧ decode .host [0x03] = .ok .stop
    ∧ decode .host [0x13, 0x03, 0x02, 0x00] = .ok (.readBuf 3 2)
    ∧ decode .host [0x18, 0x00, 0x02, 0x00, 0x68, 0x69] = .ok (.write 0 [0x68, 0x69])
    ∧ decode .host [0x21, 0x01, 0x00, 0x00] = .ok (.readResponse 1 0)
    ∧ decode .host [0x29, 0x02, 10, 0, 0, 9, 80, 0, 0xA0, 0x0F, 0] = .ok (.connSet 2 ⟨10, 0, 0, 9⟩ 80 4000 0)
    ∧ decode .host [0x19, 0x03, 10, 0, 0, 7, 0x88, 0x13, 1, 0, 0x61] = .ok (.writeTo 3 ⟨10, 0, 0, 7⟩ 5000 [0x61])
    ∧ decode .micro [0x84, 0x7A] = .ok (.pushByte 0x7A)
    ∧ decode .micro [0x91] = .ok .disassocCascade

/-! ## The machine as a whole -/

/-- A step with no operation in progress runs the operation that the first waiting word decodes to, with the word taken
off the port (00 R8; the queue of words is the model's, log 7). -/
def Obligations.StepRunsTheDecodedOperation : Prop :=
  ∀ (s : State) (r : Request) (rest : List Request) (i : Instr), s.cfg.valid = true → s.registersOk = true →
    s.activity = none → s.port = r :: rest → decode r.port r.word = .ok i →
    step s = exec i { s with port := rest }

/-- Operations do not overlap (20 R77, 00 R7): while an operation is in progress no word leaves the ports, and otherwise a
step takes at most the first one; no operation adds or drops words. The queue of waiting words and the operation held in
progress are the model's choices (logs 7, 6). -/
def Obligations.OneWordAtATime : Prop :=
  ∀ s t : State, step s = .next t →
    (s.activity ≠ none → t.port = s.port) ∧ (s.activity = none → t.port = s.port.tail)

/-- A host word whose opcode is not in the table of 30 R119 is answered ERR_ILLEGAL_OP, whatever follows the opcode and
whatever the block's mode, and does nothing else; the micro codes are among them (30 R119, R120; 46 R464 step 1). -/
def Obligations.IllegalOpcodeDoesNothing : Prop :=
  ∀ (s : State) (op : Byte) (operands : List Byte) (rest : List Request), s.cfg.valid = true →
    s.registersOk = true → s.activity = none → s.port = ⟨.host, op :: operands⟩ :: rest →
    op ∉ ([0x01, 0x02, 0x03, 0x04, 0x05, 0x06, 0x10, 0x11, 0x12, 0x13, 0x14, 0x15, 0x16, 0x18, 0x19, 0x20, 0x21, 0x22,
      0x28, 0x29, 0x2A, 0x2B] : List Byte) →
    step s = .next { s with port := rest, result := some (.record [0x0A]) }

/-- The registers after power-on satisfy the invariant; the spec gives `lifecycle` alone a value there, STOPPED (70 R520),
and the other values are the model's (logs 1, 3, 20). Whatever the parameters, the block then waits for the host with
nothing changed (70 R520). -/
def Obligations.PowerOnState : Prop :=
  (State.reset.Inv)
  ∧ (∀ cfg : Config, (State.resetWith cfg).lifecycle = .stopped
      ∧ (cfg.valid = true → step (State.resetWith cfg) = .next (State.resetWith cfg)))

/-- Every step keeps the invariant of the registers: their ranges, the canonical form and the cells of the storage
spaces, `rxState = Bulk` iff `head.length > 0` (10 R41), `unrecoverable` with its cause (10 R33), the ALL-ONES limit
(40 R156), the codec flags untouched in STREAM mode (40 R152), the pending events against the state they report
(44 R349, R350), the NCM CID connected (44 R344, R348) and the line state of 43 R291. -/
def Obligations.EveryStepKeepsTheInvariant : Prop :=
  ∀ s t : State, s.Inv → step s = .next t → t.Inv

/-- Every step that takes its words from the host port keeps the structure of the ring: records with their dead cells
and their whole payloads, the rest of the tail frame first (42 R242, I1 to I5). -/
def Obligations.HostStepsKeepTheRing : Prop :=
  ∀ s t : State, s.Inv → s.RingOk → (∀ r ∈ s.port, r.port = .host) → step s = .next t → t.RingOk

/-- Only START, START_DONE and STOP write `lifecycle`, only START writes `linkMode`, and no operation writes a parameter
(10 R31, R32, R51). -/
def Obligations.OnlyLifecycleOperationsChangeTheMode : Prop :=
  ∀ (i : Instr) (s t : State), exec i s = .next t →
    t.cfg = s.cfg
    ∧ ((∀ m, i ≠ .start m) → t.linkMode = s.linkMode)
    ∧ ((∀ m, i ≠ .start m) → (∀ k, i ≠ .startDone k) → i ≠ .stop → t.lifecycle = s.lifecycle)

/-- A dead block stays dead, with the first cause, under every operation but STOP and START, and START changes nothing
until STOP has made the block STOPPED (60 R485, R486; 10 R33). -/
def Obligations.DeadUntilStopped : Prop :=
  ∀ (i : Instr) (s t : State), s.unrecoverable = true → s.lifecycle ≠ .stopped → i ≠ .stop → exec i s = .next t →
    t.unrecoverable = true ∧ t.fatalCause = s.fatalCause

/-- No link primitive is called while the block is dead: not by a new operation, and not by one in progress
(60 R486). -/
def Obligations.DeadBlockLeavesTheLinkAlone : Prop :=
  ∀ s t : State, s.unrecoverable = true → step s = .next t → t.trace = s.trace ∧ t.env = s.env

/-! ## Lifecycle, gate and STATUS -/

/-- START (46 R460) with StartInit (70 R521): every register it writes, and nothing else. -/
def Obligations.StartResult : Prop :=
  ∀ (mode : Byte) (s : State), exec (.start mode) s =
    if s.lifecycle ≠ .stopped then .next { s with result := some (.record [0x09]) }
    else if 1 < mode.toNat then .next { s with result := some (.record [0x03]) }
    else .next { s with
      linkMode := if mode = 0 then .stream else .bus
      unrecoverable := false, fatalCause := .none
      paused := false, escPending := false, allOnesRun := 0
      rxState := .idle, scratchLen := 0, asyncCount := 0
      head := ⟨0, 0, false, ⟨0, 0, 0, 0⟩, 0⟩, tail := ⟨0, 0, false, ⟨0, 0, 0, 0⟩, 0⟩
      headIdx := 0, tailIdx := 0
      dataResp := .none, dataWait := false
      conn := Vector.replicate 16 ⟨false, false, ⟨0, 0, 0, 0⟩, 0, 0, false⟩
      associated := false, assocPending := .none
      ncmPending := .none, ncmValid := false, ncmCid := 0
      lifecycle := .starting
      result := some (.record [0x00]) }

/-- STOP (46 R462) with StopInit (70 R522): allowed in every mode; `linkMode` keeps its value, no event is raised and no
link primitive is called. START_DONE (46 R461, and 90 C4 for a dead block): `ok` = 1 makes the block RUNNING, `ok` = 0 does
what STOP does; the tests before it in their order. An `ok` above 1 is ERR_BAD_OPERAND (30 R118), tested last (the model's
reading, log 10). -/
def Obligations.StopAndStartDoneResults : Prop :=
  (∀ s : State, exec .stop s = .next { s with
      unrecoverable := false, fatalCause := .none
      paused := false, escPending := false, allOnesRun := 0
      rxState := .idle, scratchLen := 0, asyncCount := 0
      head := ⟨0, 0, false, ⟨0, 0, 0, 0⟩, 0⟩, tail := ⟨0, 0, false, ⟨0, 0, 0, 0⟩, 0⟩
      headIdx := 0, tailIdx := 0
      dataResp := .none, dataWait := false
      conn := Vector.replicate 16 ⟨false, false, ⟨0, 0, 0, 0⟩, 0, 0, false⟩
      associated := false, assocPending := .none
      ncmPending := .none, ncmValid := false, ncmCid := 0
      lifecycle := .stopped
      result := some (.record [0x00]) })
  ∧ (∀ (ok : Byte) (s : State), exec (.startDone ok) s =
      if s.lifecycle = .stopped then .next { s with result := some (.record [0x01]) }
      else if s.unrecoverable = true then .next { s with result := some (.record [0x02]) }
      else if s.lifecycle = .running then .next { s with result := some (.record [0x09]) }
      else if ok = 1 then .next { s with lifecycle := .running, result := some (.record [0x00]) }
      else if ok = 0 then exec .stop s
      else .next { s with result := some (.record [0x03]) })

/-- STATUS (46 R463) answers, in every mode, the 16-bit word of 10 R49 least significant byte first, and writes
nothing. -/
def Obligations.StatusWordLayout : Prop :=
  ∀ s : State, ∃ w : BitVec 16,
    exec .status s = .next { s with
      result := some (.record [0x00, BitVec.ofNat 8 w.toNat, BitVec.ofNat 8 (w.toNat / 256)]) }
    ∧ w.toNat =
      (match s.lifecycle with | .stopped => 0 | .starting => 1 | .running => 2)
      + 2 ^ 2 * (match s.linkMode with | .stream => 0 | .bus => 1)
      + 2 ^ 3 * (if s.unrecoverable then 1 else 0)
      + 2 ^ 4 * (match s.fatalCause with
        | .none => 0 | .responseTimeout => 1 | .dataResponseTimeout => 2 | .busErrorStorm => 3)
      + 2 ^ 6 * (if s.paused then 1 else 0)
      + 2 ^ 7 * (if s.escPending then 1 else 0)
      + 2 ^ 8 * (match s.rxState with
        | .idle => 0 | .escape => 1 | .escapeZ => 2 | .escapeA => 3 | .escapeY1 => 4 | .escapeY2 => 5
        | .escapeY3 => 6 | .async => 7 | .bulk => 8)
      + 2 ^ 12 * (if s.associated then 1 else 0)
      + 2 ^ 13 * (match s.assocPending with | .none => 0 | .associated => 1 | .disassociated => 2)
      + 2 ^ 15 * (match s.ncmPending with | .none => 0 | .connected => 1 | .disconnected => 1)

/-- Steps 3 and 4 of the gate (46 R464): a host operation other than START, START_DONE, STOP and STATUS on a STOPPED
block answers ERR_NOT_STARTED, on a dead one ERR_UNRECOVERABLE, and writes no other state. -/
def Obligations.GateTurnsOperationsAway : Prop :=
  ∀ (i : Instr) (s : State), i.gated = true →
    (s.lifecycle = .stopped → exec i s = .next { s with result := some (.record [0x01]) })
    ∧ (s.lifecycle ≠ .stopped → s.unrecoverable = true →
        exec i s = .next { s with result := some (.record [0x02]) })

/-- Step 5 of the gate (46 R464, 30 R118): a CID above 15, an `ssl` above 1, an `rmode` above 2, and a RAW buffer below
MAX_RESP_LEN + 1 (43 R303) are ERR_BAD_OPERAND, and no other state is written. -/
def Obligations.BadOperandsAreRefused : Prop :=
  ∀ (s : State), s.alive →
    (∀ (c : Byte) (n : Half) (ip : IPv4) (port port' : Half) (ssl : Byte) (data : List Byte), 15 < c.toNat →
      ∀ i ∈ [Instr.peek c, .read c, .readBuf c n, .available c, .write c data, .writeTo c ip port data, .connQuery c,
        .connSet c ip port port' ssl], exec i s = .next { s with result := some (.record [0x03]) })
    ∧ (∀ (c : Byte) (ip : IPv4) (port port' : Half) (ssl : Byte), 1 < ssl.toNat →
        exec (.connSet c ip port port' ssl) s = .next { s with result := some (.record [0x03]) })
    ∧ (∀ (rmode : Byte) (n : Half), 2 < rmode.toNat ∨ (rmode = 0 ∧ n.toNat < s.cfg.maxRespLen + 1) →
        exec (.readResponse rmode n) s = .next { s with result := some (.record [0x03]) })

/-! ## The bus codec -/

/-- In STREAM mode CODEC_SEND makes one LinkWrite of the byte unchanged and CODEC_RECV returns exactly what one LinkRead
answers, and no codec flag is read or written (40 R152). -/
def Obligations.StreamPassesBytesThrough : Prop :=
  ∀ s : State, s.linkMode = .stream → s.unrecoverable = false →
    (∀ b : Byte, exec (.codecSend b) s =
      .next { s with trace := .write b :: s.trace, activity := none, result := some (.code .ok) })
    ∧ (∀ (a : Option Byte) (rest : List (Option Byte)), s.env.linkReads = a :: rest →
      exec .codecRecv s = .next { s with
        env := { s.env with linkReads := rest }, trace := .read a :: s.trace, result := some (.byte a) })
    ∧ ∃ (a : Option Byte) (e : Env), exec .codecRecv s =
      .next { s with env := e, trace := .read a :: s.trace, result := some (.byte a) }

/-- CODEC_SEND in BUS mode. Not paused, it exchanges exactly the escaped pair of a reserved value, or the one byte of any
other (40 R151, 30 R101; the module answers BUS_IDLE here). A pair is not interrupted, whatever is received in between,
and an XOFF received with BUS_ESC holds the next CODEC_SEND (40 R154). Paused, it exchanges BUS_IDLE until the module
sends XON, however often it first answers otherwise, and then sends its byte (40 R153). -/
def Obligations.BusSendOnTheWire : Prop :=
  (∀ (b : Byte) (s : State) (rest : List Byte), s.cfg.valid = true → s.linkMode = .bus → s.unrecoverable = false →
      s.paused = false →
      let wire : List Byte :=
        if b ∈ ([0x00, s.cfg.busAck, s.cfg.busIdle, s.cfg.busXoff, s.cfg.busEsc, s.cfg.busXon, 0xFF] : List Byte)
        then [s.cfg.busEsc, b ^^^ s.cfg.busMask] else [b]
      s.env.exchanges = List.replicate wire.length s.cfg.busIdle ++ rest →
      exec (.codecSend b) s = .next { s with
        env := { s.env with exchanges := rest }
        trace := (wire.map fun t => .exchange t s.cfg.busIdle).reverse ++ s.trace
        allOnesRun := 0
        activity := none
        result := some (.code .ok) })
  ∧ (∀ (b r₁ r₂ : Byte) (s : State) (rest : List Byte), s.cfg.valid = true → s.linkMode = .bus →
      s.unrecoverable = false → s.paused = false → b ∈ s.cfg.reserved → s.env.exchanges = r₁ :: r₂ :: rest →
      ∃ t : State, exec (.codecSend b) s = .next t
        ∧ t.trace = .exchange (b ^^^ s.cfg.busMask) r₂ :: .exchange s.cfg.busEsc r₁ :: s.trace
        ∧ (r₁ = s.cfg.busXoff → r₂ ≠ s.cfg.busXon → t.paused = true))
  ∧ (∀ (b : Byte) (k : Nat) (s : State) (rest : List Byte), s.cfg.valid = true → s.linkMode = .bus →
      s.unrecoverable = false → s.paused = true → b ∉ s.cfg.reserved →
      s.env.exchanges = List.replicate k s.cfg.busIdle ++ s.cfg.busXon :: s.cfg.busIdle :: rest →
      exec (.codecSend b) s = .next { s with
        env := { s.env with exchanges := rest }
        trace := .exchange b s.cfg.busIdle :: .exchange s.cfg.busIdle s.cfg.busXon ::
          (List.replicate k (.exchange s.cfg.busIdle s.cfg.busIdle) ++ s.trace)
        paused := false
        allOnesRun := 0
        activity := none
        result := some (.code .ok) })

/-- What CODEC_RECV does in BUS mode with each value it receives (40 R155 to R158): an owed escaped byte is taken without
asking the data-ready line and is data whatever it is; no data ready means no exchange; then the control values, and
data. -/
def Obligations.BusReceiveByValue : Prop :=
  ∀ s : State, s.cfg.valid = true → s.linkMode = .bus → s.unrecoverable = false →
    (∀ (r : Byte) (rest : List Byte), s.escPending = true → s.env.exchanges = r :: rest →
      exec .codecRecv s = .next { s with
        env := { s.env with exchanges := rest }, trace := .exchange s.cfg.busIdle r :: s.trace
        escPending := false, allOnesRun := 0, result := some (.byte (some (r ^^^ s.cfg.busMask))) })
    ∧ (∀ q : List Bool, s.escPending = false → s.env.dataReady = false :: q →
      exec .codecRecv s = .next { s with
        env := { s.env with dataReady := q }, trace := .ready false :: s.trace, result := some (.byte none) })
    ∧ (∀ (r : Byte) (rest : List Byte) (q : List Bool), s.escPending = false → s.env.dataReady = true :: q →
      s.env.exchanges = r :: rest →
      let u := { s with
        env := { s.env with dataReady := q, exchanges := rest }
        trace := .exchange s.cfg.busIdle r :: .ready true :: s.trace }
      exec .codecRecv s = .next (
        if r = 0xFF then { u with
          allOnesRun := min (s.allOnesRun + 1) 20
          unrecoverable := decide (20 ≤ s.allOnesRun + 1)
          fatalCause := if 20 ≤ s.allOnesRun + 1 then .busErrorStorm else s.fatalCause
          result := some (.byte none) }
        else if r = s.cfg.busEsc then { u with allOnesRun := 0, escPending := true, result := some (.byte none) }
        else if r = s.cfg.busXoff then { u with allOnesRun := 0, paused := true, result := some (.byte none) }
        else if r = s.cfg.busXon then { u with allOnesRun := 0, paused := false, result := some (.byte none) }
        else if r = s.cfg.busIdle ∨ r = s.cfg.busAck ∨ r = 0x00 then
          { u with allOnesRun := 0, result := some (.byte none) }
        else { u with allOnesRun := 0, result := some (.byte (some r)) }))

/-- The escape round trip (40 R159): the bytes Esc(b), delivered as bus answers to CODEC_RECV, give `none` for every byte
but the last and b for the last, and leave `escPending` 0, for every byte b. -/
def Obligations.EscapeRoundTrip : Prop :=
  ∀ (b : Byte) (s : State) (rest : List Byte) (q : List Bool), s.cfg.valid = true → s.linkMode = .bus →
    s.unrecoverable = false → s.escPending = false → s.env.dataReady = true :: q →
    s.env.exchanges = (if b ∈ s.cfg.reserved then [s.cfg.busEsc, b ^^^ s.cfg.busMask] else [b]) ++ rest →
    (b ∉ s.cfg.reserved → ∃ t : State, exec .codecRecv s = .next t
      ∧ t.result = some (.byte (some b)) ∧ t.escPending = false ∧ t.env.exchanges = rest)
    ∧ (b ∈ s.cfg.reserved → ∃ t u : State, exec .codecRecv s = .next t ∧ t.result = some (.byte none)
      ∧ exec .codecRecv t = .next u ∧ u.result = some (.byte (some b)) ∧ u.escPending = false
      ∧ u.env.exchanges = rest)

/-- Of 20 ALL-ONES markers received in a row the first 19 leave the block alive and the 20th kills it with cause
BUS_ERROR_STORM (40 R156). A storm inside a host operation ends it with ERR_UNRECOVERABLE: received by a poll of POLL,
SERVICE, READ_RESPONSE or a read operation with nothing buffered (46 R420, R421, R455; 43 R303); or received while SEND_COMMAND,
SEND_COMMAND_EXPECT_OK, WRITE or WRITE_TO sends its first byte, whose escaped pair is completed, and no later byte goes out
(43 R307, 46 R442, 60 R486). The line state at rest is the model's (log 20). -/
def Obligations.TwentiethAllOnesKills : Prop :=
  (∀ (s : State) (rest : List Byte) (q : List Bool), s.linkMode = .bus → s.unrecoverable = false →
    s.escPending = false → s.allOnesRun = 0 → s.env.exchanges = List.replicate 20 0xFF ++ rest →
    s.env.dataReady = List.replicate 20 true ++ q →
    (∀ k, k ≤ 19 → (afterTimes .codecRecv k s).unrecoverable = false ∧ (afterTimes .codecRecv k s).allOnesRun = k)
    ∧ (afterTimes .codecRecv 20 s).unrecoverable = true
    ∧ (afterTimes .codecRecv 20 s).fatalCause = .busErrorStorm)
  ∧ (∀ (s : State) (rest : List Byte) (q : List Bool), s.cfg.valid = true → s.alive → s.linkMode = .bus →
    s.escPending = false → s.allOnesRun = 19 → s.env.exchanges = 0xFF :: rest → s.env.dataReady = true :: q →
    let u := { s with
      env := { s.env with exchanges := rest, dataReady := q }
      trace := .exchange s.cfg.busIdle 0xFF :: .ready true :: s.trace
      allOnesRun := 20, unrecoverable := true, fatalCause := .busErrorStorm
      result := some (.record [0x02]) }
    exec .poll s = .next u ∧ exec .service s = .next u
    ∧ exec (.readResponse 1 0) s = .next { u with
        line := ⟨.discard, s.cfg.lineBufInternal, [], 0, false, false, []⟩, activity := none }
    ∧ (s.ringEmpty → ∀ (c : Cid) (n : Half), ∀ i ∈ [Instr.peek (BitVec.ofNat 8 c.val), .read (BitVec.ofNat 8 c.val),
        .readBuf (BitVec.ofNat 8 c.val) n, .readAny, .firstCid, .available (BitVec.ofNat 8 c.val), .availableAny],
        exec i s = .next u))
  ∧ (∀ (s : State) (rest : List Byte), s.cfg.valid = true → s.alive → s.linkMode = .bus → s.paused = false →
    s.allOnesRun = 19 →
    let wire := fun b : Byte => if b ∈ s.cfg.reserved then [s.cfg.busEsc, b ^^^ s.cfg.busMask] else [b]
    let answers := fun b : Byte => 0xFF :: List.replicate ((wire b).length - 1) s.cfg.busIdle
    let u := fun b : Byte => { s with
      env := { s.env with exchanges := rest }
      trace := (List.zipWith LinkEvent.exchange (wire b) (answers b)).reverse ++ s.trace
      allOnesRun := if b ∈ s.cfg.reserved then 0 else 20
      unrecoverable := true, fatalCause := .busErrorStorm
      activity := none
      result := some (.record [0x02]) }
    (∀ (text : List Byte) (b : Byte), b = (text ++ [0x0D]).headD 0 → s.env.exchanges = answers b ++ rest →
      exec (.sendCommand text) s = .next (u b) ∧ exec (.sendCommandExpectOk text) s = .next (u b))
    ∧ (∀ (c : Cid) (addr : Option NetAddr) (data : List Byte) (b : Byte), s.conn[c].connected = true → data ≠ [] →
      b = (frameBytes s.cfg c addr (data.take 1400)).headD 0 → s.env.exchanges = answers b ++ rest →
      exec (match addr with
        | none => .write (BitVec.ofNat 8 c.val) data
        | some a => .writeTo (BitVec.ofNat 8 c.val) a.ip a.port data) s =
        .next { u b with dataResp := .none, dataWait := false }))

/-! ## The receive state machine -/

/-- RX_PROCESS classifies every byte by `rxState` and the byte alone: a line byte in Idle, anything else absorbed
(41 R190, R202); and it never writes the lifecycle, the link mode, the dead state, the codec flags, `dataWait`, the
parameters, the line state or the link. -/
def Obligations.ReceiveClassifiesEveryByte : Prop :=
  ∀ (b : Byte) (s : State), ∃ t : State, exec (.rxProcess b) s = .next t
    ∧ t.result = some (.rx (if s.rxState = .idle ∧ b ≠ s.cfg.escChar then .line b else .absorbed))
    ∧ t.cfg = s.cfg ∧ t.lifecycle = s.lifecycle ∧ t.linkMode = s.linkMode ∧ t.unrecoverable = s.unrecoverable
    ∧ t.fatalCause = s.fatalCause ∧ t.paused = s.paused ∧ t.escPending = s.escPending
    ∧ t.allOnesRun = s.allOnesRun ∧ t.dataWait = s.dataWait ∧ t.line = s.line ∧ t.env = s.env ∧ t.trace = s.trace
    ∧ t.port = s.port ∧ t.activity = s.activity

/-- The Idle arm (41 R191). The Escape arm (R192): the byte after ESC selects the sequence and is always consumed; a data
response is taken only while a write waits for one and has none. The Bulk arm (R199): every byte value is payload; the
byte is stored by PUSH_BYTE, `head.length` falls by one, and the block is in Idle when it reaches 0. -/
def Obligations.ReceiveArmsWithoutAParser : Prop :=
  (∀ (b : Byte) (s : State), s.rxState = .idle → exec (.rxProcess b) s =
      if b = s.cfg.escChar then .next { s with rxState := .escape, result := some (.rx .absorbed) }
      else .next { s with result := some (.rx (.line b)) })
  ∧ (∀ (b : Byte) (s : State), s.rxState = .escape →
      let u := { s with scratchLen := 0, result := some (.rx .absorbed) }
      exec (.rxProcess b) s = .next (
        if b = s.cfg.introZ then { u with rxState := .escapeZ }
        else if b = s.cfg.introA then { u with rxState := .escapeA }
        else if b = s.cfg.introY then { u with rxState := .escapeY1 }
        else if b = s.cfg.introOk ∨ b = s.cfg.introFail then
          if s.dataWait = true ∧ s.dataResp = .none then
            { u with dataResp := if b = s.cfg.introOk then .ok else .fail, rxState := .idle }
          else { u with rxState := .idle, log := .unsolicitedDataResponse :: s.log }
        else if b = s.cfg.escChar then { u with rxState := .escape }
        else { u with rxState := .idle, log := .unknownEscape :: s.log }))
  ∧ (∀ (b : Byte) (s : State), s.rxState = .bulk → exec (.rxProcess b) s =
      .next { after (.pushByte b) s with
        head := { s.head with length := s.head.length - 1 }
        rxState := if s.head.length - 1 = 0 then .idle else .bulk
        result := some (.rx .absorbed) })

/-- A malformed header goes back to Idle, is logged, and writes nothing else but the scratch cell of a stored byte
(41 R200): a bulk header whose tail does not parse (41 R193); an async header whose subtype or length does not (41 R194); a
UDP-server field 1 (41 R196) ended before its second character, or with a CID that is no HEX digit or an address that is not
four groups, or of a 17th byte; a field 2 (41 R197) with no character, or a port that does not parse or is above 65535, or of
a sixth byte; a field 3 whose length does not parse (41 R198). SP and HT are the model's constants (log 23). -/
def Obligations.MalformedHeaderIsDropped : Prop :=
  ∀ (b : Byte) (s : State),
    let u := { s with
      scratchLen := 0, rxState := .idle, log := .hdrParseFail :: s.log, result := some (.rx .absorbed) }
    let cells := fun (first n : Nat) => (List.range n).map fun k => s.scratch.read (first + k)
    (s.scratch.wf = true → s.rxState = .escapeZ → s.scratchLen = 4 →
      parseInt [s.scratch.read 0] 16 8 = none ∨ parseInt (cells 1 3 ++ [b]) 10 16 = none →
      exec (.rxProcess b) s = .next { u with scratch := s.scratch.write 4 b })
    ∧ (s.scratch.wf = true → s.rxState = .escapeA → s.scratchLen = 2 →
      parseInt [s.scratch.read 0] 16 8 = none ∨ parseInt [s.scratch.read 1, b] 10 8 = none →
      exec (.rxProcess b) s = .next { u with scratch := s.scratch.write 2 b })
    ∧ (s.rxState = .escapeY1 → s.scratchLen = 16 → b ≠ 0x20 → exec (.rxProcess b) s = .next u)
    ∧ (s.rxState = .escapeY1 → b = 0x20 →
      s.scratchLen < 2 ∨ parseInt [s.scratch.read 0] 16 8 = none
        ∨ (∀ ip : IPv4, parseIp (cells 1 (s.scratchLen - 1)) ≠ some ⟨4, ip⟩) →
      exec (.rxProcess b) s = .next u)
    ∧ (s.rxState = .escapeY2 → s.scratchLen = 5 → b ≠ 0x09 → exec (.rxProcess b) s = .next u)
    ∧ (s.rxState = .escapeY2 → b = 0x09 → s.scratchLen = 0 ∨ parseInt (cells 0 s.scratchLen) 10 16 = none →
      exec (.rxProcess b) s = .next u)
    ∧ (s.scratch.wf = true → s.rxState = .escapeY3 → s.scratchLen = 3 →
      parseInt (cells 0 3 ++ [b]) 10 16 = none →
      exec (.rxProcess b) s = .next { u with scratch := s.scratch.write 3 b })

/-- The header round trip (41 R203): the wire form of a frame header, fed to RX_PROCESS from Idle, leaves `head` equal to
it, pushes a record that POP_HEADER decodes back to it, and leaves Bulk (Idle for length 0). -/
def Obligations.HeaderRoundTrip : Prop :=
  ∀ (h : FrameHeader) (s : State), s.Inv → lettersDiffer s.cfg → s.rxState = .idle → plainIsBare h →
    h.length.toNat ≤ 1400 →
    let t := feed (encodeRxHeader s.cfg h) s
    t.head = h
    ∧ t.rxState = (if h.length = 0 then .idle else .bulk)
    ∧ exec .popHeader { t with tailIdx := s.headIdx } =
        .next { t with tail := h, tailIdx := t.headIdx, result := some (.header h) }

/-- An async record (30 R105, 41 R194, R195): its header and body, fed from Idle, have the effect of ASYNC_DISPATCH of
exactly that subtype and body, whatever bytes the body holds, and leave Idle. -/
def Obligations.AsyncRecordIsDispatchedWhole : Prop :=
  ∀ (subtype : Cid) (body : List Byte) (s : State), s.Inv → lettersDiffer s.cfg → s.rxState = .idle →
    body.length ≤ 99 →
    let t := feed ([s.cfg.escChar, s.cfg.introA, hexU subtype, BitVec.ofNat 8 (0x30 + body.length / 10),
      BitVec.ofNat 8 (0x30 + body.length % 10)] ++ body) s
    let u := after (.asyncDispatch subtype body) s
    t.rxState = .idle ∧ t.conn = u.conn ∧ t.associated = u.associated ∧ t.assocPending = u.assocPending
    ∧ t.ncmPending = u.ncmPending ∧ t.ncmValid = u.ncmValid ∧ t.ncmCid = u.ncmCid ∧ t.log = u.log
    ∧ t.ring = s.ring ∧ t.headIdx = s.headIdx ∧ t.tailIdx = s.tailIdx ∧ t.head = s.head ∧ t.tail = s.tail

/-! ## The ring -/

/-- PUSH_HEADER (42 R244, R245) with the record layout of 20 R73: after DROP_OLDEST has made room, the record stands in
consecutive cells from the writing cursor, or from cell 0 when fewer than 9 cells remain before the end. PUSH_BYTE (42
R246): room for one byte is made first, then the byte is stored at the writing cursor, which moves by one and wraps at the
end. Every other cell reads as before. -/
def Obligations.PushesWriteTheRing : Prop :=
  (∀ (h : FrameHeader) (s : State), s.Inv →
      let size := if h.udp = true then 9 else 3
      let skip := if s.cfg.ringCap - s.headIdx < 9 then s.cfg.ringCap - s.headIdx else 0
      let i := if 0 < skip then 0 else s.headIdx
      let u := after (.dropOldest (BitVec.ofNat 8 (skip + size))) s
      let record : List Byte := [BitVec.ofNat 8 (h.cid.val + if h.udp = true then 128 else 0),
        BitVec.ofNat 8 h.length.toNat, BitVec.ofNat 8 (h.length.toNat / 256), h.ip.o1, h.ip.o2, h.ip.o3, h.ip.o4,
        BitVec.ofNat 8 h.port.toNat, BitVec.ofNat 8 (h.port.toNat / 256)]
      ∃ ring : Memory, exec (.pushHeader h) s =
          .next { u with ring := ring, headIdx := (i + size) % s.cfg.ringCap, result := some .none }
        ∧ i + size ≤ s.cfg.ringCap
        ∧ (∀ k, k < size → ring.read (i + k) = record.getD k 0)
        ∧ (∀ a, a < i ∨ i + size ≤ a → ring.read a = s.ring.read a))
  ∧ (∀ (b : Byte) (s : State), s.Inv →
      ∃ ring : Memory, exec (.pushByte b) s = .next { after (.dropOldest 1) s with
          ring := ring, headIdx := (s.headIdx + 1) % s.cfg.ringCap, result := some .none }
        ∧ ring.read s.headIdx = b ∧ (∀ a, a ≠ s.headIdx → ring.read a = s.ring.read a))

/-- POP_HEADER (42 R247) with the record layout of 20 R73: the reader makes the writer's jump, takes 9 bytes if bit 7 of
the first is set and 3 otherwise, ignores its bits [6:4], and moves the reading cursor behind them. R247 has it called only
with `tail.length` = 0 and `used` > 0; that it does the same in every other state is the model's (log 19). -/
def Obligations.PopHeaderReadsTheRecord : Prop :=
  ∀ s : State,
    let i := if s.cfg.ringCap - s.tailIdx < 9 then 0 else s.tailIdx
    let at_ := fun k => s.ring.read (i + k)
    let udp := decide (128 ≤ (at_ 0).toNat)
    let h : FrameHeader := {
      cid := Fin.ofNat 16 ((at_ 0).toNat % 16)
      length := BitVec.ofNat 16 ((at_ 1).toNat + 256 * (at_ 2).toNat)
      udp := udp
      ip := if udp = true then ⟨at_ 3, at_ 4, at_ 5, at_ 6⟩ else ⟨0, 0, 0, 0⟩
      port := if udp = true then BitVec.ofNat 16 ((at_ 7).toNat + 256 * (at_ 8).toNat) else 0 }
    exec .popHeader s = .next { s with
      tail := h, tailIdx := (i + if udp = true then 9 else 3) % s.cfg.ringCap, result := some (.header h) }

/-- PEEK_BYTE (42 R248), POP_BYTE (R249) and AVAILABLE_BYTES (R250). The count AVAILABLE_BYTES answers is exact: that many
POP_BYTE in a row each return the next buffered byte, and the one after them returns none. -/
def Obligations.TailFrameBytes : Prop :=
  (∀ s : State, exec .peekByte s = .next { s with result := some (.byte (
      if 0 < s.tail.length.toNat ∧ 0 < (s.headIdx + s.cfg.ringCap - s.tailIdx) % s.cfg.ringCap
      then some (s.ring.read s.tailIdx) else none)) })
  ∧ (∀ s : State, exec .popByte s =
      if s.tail.length.toNat = 0 ∨ (s.headIdx + s.cfg.ringCap - s.tailIdx) % s.cfg.ringCap = 0
      then .next { s with result := some (.byte none) }
      else .next { s with
        tailIdx := (s.tailIdx + 1) % s.cfg.ringCap
        tail := { s.tail with length := s.tail.length - 1 }
        result := some (.byte (some (s.ring.read s.tailIdx))) })
  ∧ (∀ s : State,
      let used := (s.headIdx + s.cfg.ringCap - s.tailIdx) % s.cfg.ringCap
      let n := min s.tail.length.toNat used
      exec .availableBytes s = .next { s with result := some (.count n) }
      ∧ (s.Inv → (∀ k, k < n → (after .popByte (afterTimes .popByte k s)).result =
            some (.byte (some (s.ring.read ((s.tailIdx + k) % s.cfg.ringCap)))))
          ∧ (after .popByte (afterTimes .popByte n s)).result = some (.byte none)))

/-- DROP_OLDEST (42 R251) with DropUnit (R252), as the loop it is: it does nothing when enough cells are free or the ring is
empty; else one unit goes first, a payload byte of the tail frame (lost, its CID's `error` latched and logged) or a header
record (nothing lost). On return the cells asked for are free (at most 17 are), the structure of the ring holds, and only
`tailIdx`, `tail`, the `error` flags and the log have changed. R251 gives n the range 1 to 17; that the loop is the same for
n = 0 and above 17 is the model's (log 19). -/
def Obligations.DropOldestMakesRoom : Prop :=
  (∀ (n : Byte) (s : State), s.Inv → s.RingOk →
      exec (.dropOldest n) s =
        if s.free < n.toNat ∧ 0 < s.used then
          if 0 < s.tail.length.toNat then
            exec (.dropOldest n) { s with
              tailIdx := (s.tailIdx + 1) % s.cfg.ringCap
              tail := { s.tail with length := s.tail.length - 1 }
              conn := s.conn.set s.tail.cid { s.conn[s.tail.cid] with error := true }
              log := .ringDrop :: s.log }
          else exec (.dropOldest n) (after .popHeader s)
        else .next { s with result := some .none })
  ∧ (∀ (n : Byte) (s : State), s.Inv → s.RingOk → n.toNat ≤ 17 → ∃ t : State, exec (.dropOldest n) s = .next t
      ∧ n.toNat ≤ t.free ∧ t.RingOk
      ∧ t = { s with tailIdx := t.tailIdx, tail := t.tail, conn := t.conn, log := t.log, result := some .none }
      ∧ (∀ c : Cid, { t.conn[c] with error := s.conn[c].error } = s.conn[c]
          ∧ (s.conn[c].error = true → t.conn[c].error = true)))

/-- ADVANCE (42 R253) as the loop it is, and where it ends: at a live tail frame or an empty ring, with only `tail` and
`tailIdx` changed. -/
def Obligations.AdvanceFindsTheNextFrame : Prop :=
  ∀ s : State, s.Inv → s.RingOk →
    exec .advance s = (if s.tail.length.toNat = 0 ∧ 0 < s.used then exec .advance (after .popHeader s)
      else .next { s with result := some .none })
    ∧ ∃ t : State, exec .advance s = .next t
      ∧ (0 < t.tail.length.toNat ∨ t.used = 0)
      ∧ t = { s with tail := t.tail, tailIdx := t.tailIdx, result := some .none }

/-- A frame that arrives in an empty ring it fits in is read back whole, and no more than it: READ_BUF returns its payload
in arrival order, at most as many bytes as the host asks for (42 R254, 46 R433). -/
def Obligations.FrameIsDeliveredAsSent : Prop :=
  ∀ (h : FrameHeader) (data : List Byte) (n : Half) (s : State), s.Inv → s.alive → lettersDiffer s.cfg →
    s.rxState = .idle → s.ringEmpty → plainIsBare h → data ≠ [] → data.length = h.length.toNat →
    h.length.toNat ≤ 9999 →
    deadCells s.cfg s.headIdx + headerSize h.udp + data.length ≤ s.cfg.ringCap - 1 →
    let t := after (.readBuf (BitVec.ofNat 8 h.cid.val) n) (feed (encodeRxHeader s.cfg h ++ data) s)
    let k := min n.toNat data.length
    t.result = some (.record (0x00 :: BitVec.ofNat 8 k :: BitVec.ofNat 8 (k / 256) :: data.take k))
    ∧ t.tail = { h with length := h.length - BitVec.ofNat 16 k } ∧ t.rxState = .idle ∧ t.trace = s.trace

/-! ## The correlator -/

/-- The source's classifier examples (43 R296), for the default RESP_TABLE: "0" and "OK" are SUCCESS, "0 extra" is
UNKNOWN, "18 1" is code 18 with the argument 1; and CLASSIFY_LINE writes no register. -/
def Obligations.ClassifierExamples : Prop :=
  ∀ s : State, s.cfg.respTable = respTableDefault →
    exec (.classifyLine [0x30]) s = .next { s with result := some (.classified (.code 0 .success [])) }
    ∧ exec (.classifyLine [0x30, 0x20, 0x65, 0x78, 0x74, 0x72, 0x61]) s =
        .next { s with result := some (.classified .unknown) }
    ∧ exec (.classifyLine [0x4F, 0x4B]) s = .next { s with result := some (.classified (.code 0 .success [])) }
    ∧ exec (.classifyLine [0x31, 0x38, 0x20, 0x31]) s =
        .next { s with result := some (.classified (.code 18 .nwconnSuccess [1])) }

/-- CLASSIFY_LINE (43 R295, R297) on a line other than "OK" accepts exactly the grammar of 30 R109: a code of the table, in
0..18 and in its one spelling, and exactly its number of arguments, each one SP and one HEX character of either case. The
line "OK" is the code SUCCESS with no arguments, with the number of the table's one row of that name (a free value if there
is not exactly one, log 24). The line of no bytes, which R295 does not admit, is UNKNOWN: the model's (log 12). -/
def Obligations.ClassifierAcceptsTheGrammar : Prop :=
  ∀ (s : State) (line : List Byte), s.cfg.valid = true → ∃ k : LineClass,
    exec (.classifyLine line) s = .next { s with result := some (.classified k) }
    ∧ (line ≠ [0x4F, 0x4B] → ∀ (c : Nat) (name : RespName) (args : List Cid), k = .code c name args ↔
        ∃ (argc : Nat) (chars : List Byte), ⟨c, name, argc⟩ ∈ s.cfg.respTable ∧ c ≤ 18
          ∧ line = (if c < 10 then [BitVec.ofNat 8 (0x30 + c)]
              else [BitVec.ofNat 8 (0x30 + c / 10), BitVec.ofNat 8 (0x30 + c % 10)])
            ++ chars.flatMap (fun ch => [0x20, ch])
          ∧ chars.length = argc
          ∧ List.Forall₂ (fun ch (v : Cid) => digitValue ch = some v.val) chars args)
    ∧ (line = [0x4F, 0x4B] → ∃ c : Nat, k = .code c .success []
        ∧ ∀ r : RespRow, s.cfg.respTable.filter (fun r => r.name == .success) = [r] → c = r.code)

/-- RESP_STEP (43 R304). Store (R292), for a byte that ends no line: the overflow policy of a full line buffer. CR or LF
(R293, R294): ends an overlong line, drops an empty one, answers a code line without storing it, and keeps an unknown line
by the mode of the read, re-terminated in RAW mode with the oldest bytes evicted if the buffer is full. -/
def Obligations.ReplyLinePolicy : Prop :=
  (∀ (c : Byte) (s : State), c ≠ 0x0D → c ≠ 0x0A →
      let l := s.line
      exec (.respStep c) s = .next { s with
        line :=
          if l.dropLine = true then l
          else if l.buf.length < l.cap then { l with buf := l.buf ++ [c] }
          else if s.cfg.maxRespLen < l.buf.length - l.start then
            { l with buf := l.buf.take l.start, dropLine := true, truncated := true }
          else { l with buf := l.buf.drop 1 ++ [c], start := l.start - 1, truncated := true }
        result := some (.lineStep .more) })
  ∧ (∀ (c : Byte) (s : State), s.Inv → c = 0x0D ∨ c = 0x0A →
      let l := s.line
      let text := l.buf.drop l.start
      let kept := (l.buf ++ [0x0D, 0x0A]).drop (l.buf.length + 2 - l.cap)
      exec (.respStep c) s = .next (
        if l.dropLine = true then { s with line := { l with dropLine := false }, result := some (.lineStep .more) }
        else if text = [] then { s with result := some (.lineStep .more) }
        else match classifyLine s.cfg text with
          | .code k name args =>
            { s with line := { l with buf := l.buf.take l.start }, result := some (.lineStep (.done k name args)) }
          | .unknown =>
            { s with
              line := match l.mode with
                | .raw => { l with
                  buf := kept, start := kept.length
                  truncated := l.truncated || decide (l.cap < l.buf.length + 2) }
                | .discard => { l with buf := l.buf.take l.start }
                | .callback => { l with buf := l.buf.take l.start, lines := l.lines ++ [text] }
              result := some (.lineStep .more) }))

/-- READ_RESPONSE reads a reply (43 R303 to R305): in STREAM mode, from Idle, the bytes of a code line and the terminator
after it give OK with the code and its arguments, take exactly those bytes from the link, and have the code's side
effect (43 R301) and no other. Unknown lines before it, each with its run of terminators (43 R294), are output by the mode
of the read: all of them re-terminated by CR LF in RAW mode, none in DISCARD mode, one by one in CALLBACK mode. The second
clause is for any bytes RESP_STEP goes on after, whether the buffer overflows or not: the outputs are those of the line state
that RESP_STEP leaves, with `truncated`. Lines, counts and argument counts that their fields cannot hold are outside the
clauses (log 13); the line state at rest and the constants CR and LF are the model's (logs 20, 23). -/
def Obligations.ReadResponseReadsTheReply : Prop :=
  (∀ (rmode e : Byte) (n : Half) (earlier : List (List Byte × List Byte)) (text : List Byte) (c : Nat) (name : RespName)
      (args : List Cid) (rest : List (Option Byte)) (s : State), s.cfg.valid = true → s.alive → s.linkMode = .stream →
      s.rxState = .idle → rmode.toNat ≤ 2 → (rmode = 0 → s.cfg.maxRespLen + 1 ≤ n.toNat) →
      (∀ p ∈ earlier, isLineText s.cfg p.1 ∧ (p.1 = [] ∨ classifyLine s.cfg p.1 = .unknown)
        ∧ p.2 ≠ [] ∧ ∀ b ∈ p.2, (b = 0x0D ∨ b = 0x0A) ∧ b ≠ s.cfg.escChar) →
      isLineText s.cfg text → (e = 0x0D ∨ e = 0x0A) → e ≠ s.cfg.escChar →
      classifyLine s.cfg text = .code c name args →
      let lines := (earlier.map Prod.fst).filter fun line => decide (line ≠ [])
      let out := lines.flatMap fun line => line ++ [0x0D, 0x0A]
      let count := fun k : Nat => [BitVec.ofNat 8 k, BitVec.ofNat 8 (k / 256)]
      (rmode = 0 → out.length + text.length ≤ n.toNat) →
      (rmode ≠ 0 → ∀ line ∈ lines, line.length ≤ s.cfg.lineBufInternal) →
      (rmode = 2 → lines.length < 65536 ∧ ∀ line ∈ lines, line.length < 65536) →
      let bytes := (earlier.flatMap fun p => p.1 ++ p.2) ++ text ++ [e]
      s.env.linkReads = bytes.map some ++ rest →
      let u := if name = .linkLost then after .disassocCascade s
        else if name = .conSuccess then after (.connConnect (args.headD 0) ⟨0, 0, 0, 0⟩ 0 0 false) s else s
      ∃ argc : Byte, (args.length < 256 → argc = BitVec.ofNat 8 args.length)
        ∧ exec (.readResponse rmode n) s = .next { u with
          env := { s.env with linkReads := rest }
          trace := (bytes.map fun b => LinkEvent.read (some b)).reverse ++ s.trace
          line := ⟨.discard, s.cfg.lineBufInternal, [], 0, false, false, []⟩
          activity := none
          result := some (.record ([0x00, BitVec.ofNat 8 c, argc] ++ args.map (fun a => BitVec.ofNat 8 a.val) ++ [0]
            ++ (if rmode = 0 then count out.length ++ out else [0, 0])
            ++ (if rmode = 2 then count lines.length ++ lines.flatMap (fun line => count line.length ++ line)
              else [0, 0]))) })
  ∧ (∀ (rmode e : Byte) (n : Half) (bytes : List Byte) (c : Nat) (name : RespName) (args : List Cid)
      (rest : List (Option Byte)) (s : State), s.cfg.valid = true → s.alive → s.linkMode = .stream →
      s.rxState = .idle → rmode.toNat ≤ 2 → (rmode = 0 → s.cfg.maxRespLen + 1 ≤ n.toNat) →
      (∀ b ∈ bytes ++ [e], b ≠ s.cfg.escChar) →
      let fresh := { s with line := ⟨if rmode = 0 then .raw else if rmode = 1 then .discard else .callback,
        if rmode = 0 then n.toNat else s.cfg.lineBufInternal, [], 0, false, false, []⟩ }
      (∀ k, k < bytes.length → (feedLine (bytes.take (k + 1)) fresh).result = some (.lineStep .more)) →
      (feedLine (bytes ++ [e]) fresh).result = some (.lineStep (.done c name args)) →
      let l := (feedLine (bytes ++ [e]) fresh).line
      let out := l.buf.take l.start
      let count := fun k : Nat => [BitVec.ofNat 8 k, BitVec.ofNat 8 (k / 256)]
      l.lines.length < 65536 → (∀ line ∈ l.lines, line.length < 65536) →
      s.env.linkReads = (bytes ++ [e]).map some ++ rest →
      let u := if name = .linkLost then after .disassocCascade s
        else if name = .conSuccess then after (.connConnect (args.headD 0) ⟨0, 0, 0, 0⟩ 0 0 false) s else s
      ∃ argc : Byte, (args.length < 256 → argc = BitVec.ofNat 8 args.length)
        ∧ exec (.readResponse rmode n) s = .next { u with
          env := { s.env with linkReads := rest }
          trace := ((bytes ++ [e]).map fun b => LinkEvent.read (some b)).reverse ++ s.trace
          line := ⟨.discard, s.cfg.lineBufInternal, [], 0, false, false, []⟩
          activity := none
          result := some (.record ([0x00, BitVec.ofNat 8 c, argc] ++ args.map (fun a => BitVec.ofNat 8 a.val)
            ++ [if l.truncated = true then 1 else 0]
            ++ (if rmode = 0 then count out.length ++ out else [0, 0])
            ++ (if rmode = 2 then count l.lines.length ++ l.lines.flatMap (fun line => count line.length ++ line)
              else [0, 0]))) })

/-- The response timeout (43 R306): with no byte on the link and Expired, READ_RESPONSE answers ERR_UNRECOVERABLE and
leaves the block dead with cause RESPONSE_TIMEOUT, and every later host operation but STATUS, STOP and START, START_DONE
among them, answers ERR_UNRECOVERABLE and changes nothing; START answers ERR_ALREADY_STARTED (60 R486, 90 C4). The line
state at rest is the model's (log 20). -/
def Obligations.ResponseTimeoutKillsTheBlock : Prop :=
  ∀ (rest : List (Option Byte)) (q : List Bool) (s : State), s.alive → s.linkMode = .stream →
    s.env.linkReads = none :: rest → s.env.expired = true :: q →
    let t := { s with
      env := { s.env with linkReads := rest, expired := q }
      trace := .expired true :: .read none :: s.trace
      unrecoverable := true, fatalCause := .responseTimeout
      line := ⟨.discard, s.cfg.lineBufInternal, [], 0, false, false, []⟩
      activity := none
      result := some (.record [0x02]) }
    exec (.readResponse 1 0) s = .next t
    ∧ (∀ i : Instr, i.gated = true → exec i t = .next { t with result := some (.record [0x02]) })
    ∧ (∀ ok : Byte, exec (.startDone ok) t = .next { t with result := some (.record [0x02]) })
    ∧ (∀ mode : Byte, exec (.start mode) t = .next { t with result := some (.record [0x09]) })

/-- SEND_COMMAND (43 R307): the text as given, then CR LF; in STREAM mode one LinkWrite each, in order; in BUS mode the
exchanges of each byte's escaped form (40 R151, 30 R101; the module answers BUS_IDLE here). CR LF is the model's constant
(log 23). -/
def Obligations.SendCommandWritesTheLine : Prop :=
  (∀ (text : List Byte) (s : State), s.alive → s.linkMode = .stream →
    exec (.sendCommand text) s = .next { s with
      trace := ((text ++ [0x0D, 0x0A]).map LinkEvent.write).reverse ++ s.trace
      activity := none
      result := some (.record [0x00]) })
  ∧ (∀ (text rest : List Byte) (s : State), s.cfg.valid = true → s.alive → s.linkMode = .bus → s.paused = false →
    let wire := (text ++ [0x0D, 0x0A]).flatMap fun b =>
      if b ∈ s.cfg.reserved then [s.cfg.busEsc, b ^^^ s.cfg.busMask] else [b]
    s.env.exchanges = List.replicate wire.length s.cfg.busIdle ++ rest →
    exec (.sendCommand text) s = .next { s with
      env := { s.env with exchanges := rest }
      trace := (wire.map fun b => LinkEvent.exchange b s.cfg.busIdle).reverse ++ s.trace
      allOnesRun := 0
      activity := none
      result := some (.record [0x00]) })

/-- SEND_COMMAND_EXPECT_OK (43 R308), in STREAM mode from Idle: SEND_COMMAND, then the reply read as by READ_RESPONSE
DISCARD up to its code line and one terminator, with unknown and empty lines before it skipped whatever their length (R292,
R294), and one output byte: 1 exactly for the code SUCCESS. The line state at rest and the constants CR and LF are the
model's (logs 20, 23). -/
def Obligations.ExpectOkComparesTheReply : Prop :=
  ∀ (text reply : List Byte) (e : Byte) (earlier : List (List Byte × List Byte)) (c : Nat) (name : RespName)
    (args : List Cid) (rest : List (Option Byte)) (s : State), s.cfg.valid = true → s.alive → s.linkMode = .stream →
    s.rxState = .idle →
    (∀ p ∈ earlier, isLineText s.cfg p.1 ∧ (p.1 = [] ∨ classifyLine s.cfg p.1 = .unknown)
      ∧ p.2 ≠ [] ∧ ∀ b ∈ p.2, (b = 0x0D ∨ b = 0x0A) ∧ b ≠ s.cfg.escChar) →
    isLineText s.cfg reply → (e = 0x0D ∨ e = 0x0A) → e ≠ s.cfg.escChar →
    classifyLine s.cfg reply = .code c name args →
    let bytes := (earlier.flatMap fun p => p.1 ++ p.2) ++ reply ++ [e]
    s.env.linkReads = bytes.map some ++ rest →
    let u := if name = .linkLost then after .disassocCascade s
      else if name = .conSuccess then after (.connConnect (args.headD 0) ⟨0, 0, 0, 0⟩ 0 0 false) s else s
    exec (.sendCommandExpectOk text) s = .next { u with
      env := { s.env with linkReads := rest }
      trace := (bytes.map fun b => LinkEvent.read (some b)).reverse
        ++ ((text ++ [0x0D, 0x0A]).map LinkEvent.write).reverse ++ s.trace
      line := ⟨.discard, s.cfg.lineBufInternal, [], 0, false, false, []⟩
      activity := none
      result := some (.record [0x00, if name = .success then 1 else 0]) }

/-! ## Events, connections and the association -/

/-- CONN_CONNECT (44 R343): the disconnect of a connected CID first, then the entry with `error` cleared. CONN_DISCONNECT
(R344) with NcmEdge (R350): nothing for a CID that is not connected; else `connected` alone falls, and for the NCM CID the
NCM disconnect is raised, or cancels an undelivered NCM connect. CONN_FAIL (R345): `error` is latched, even when the CID
was not connected, then the CID is disconnected. -/
def Obligations.ConnectionMicroOperations : Prop :=
  (∀ (c : Cid) (ip : IPv4) (rport lport : Half) (ssl : Bool) (s : State),
      exec (.connConnect c ip rport lport ssl) s =
        let u := if s.conn[c].connected = true then after (.connDisconnect c) s else s
        .next { u with conn := u.conn.set c ⟨true, false, ip, rport, lport, ssl⟩, result := some .none })
  ∧ (∀ (c : Cid) (s : State), exec (.connDisconnect c) s =
      if s.conn[c].connected = false then .next { s with result := some .none }
      else if s.ncmValid = true ∧ s.ncmCid = c then
        .next { s with
          conn := s.conn.set c { s.conn[c] with connected := false }
          ncmValid := false
          ncmPending := if s.ncmPending = .connected then .none else .disconnected
          result := some .none }
      else .next { s with conn := s.conn.set c { s.conn[c] with connected := false }, result := some .none })
  ∧ (∀ (c : Cid) (s : State), exec (.connFail c) s =
      .next (after (.connDisconnect c) { s with conn := s.conn.set c { s.conn[c] with error := true } }))

/-- DISASSOC_CASCADE (44 R346) with R349 and R350: every connected CID is disconnected with `error` set and every other
entry kept; at most one NCM disconnect and one Disassociated edge are raised, each cancelling an undelivered opposite. -/
def Obligations.CascadeDisconnectsEveryCid : Prop :=
  ∀ s : State,
    let ncm := s.ncmValid && s.conn[s.ncmCid].connected
    exec .disassocCascade s = .next { s with
      conn := s.conn.map fun e => if e.connected = true then { e with connected := false, error := true } else e
      ncmValid := s.ncmValid && !ncm
      ncmPending := if ncm = true then (if s.ncmPending = .connected then .none else .disconnected) else s.ncmPending
      associated := false
      assocPending := if s.associated = true then
        (if s.assocPending = .associated then .none else .disassociated) else s.assocPending
      result := some .none }

/-- The association cascade (44 R353): with `associated` 1, no event pending and N connected CIDs, none of them the NCM
CID, one accepted disassociation event leaves all N disconnected with `error` set, and the events then delivered are
exactly one disassociation; the next delivery has none. R340 gives the record's body 0 to 99 bytes; that a longer one is
taken alike is the model's (log 19). -/
def Obligations.CascadeIsReportedOnce : Prop :=
  ∀ (subtype : Cid) (body : List Byte) (c : Nat) (name : RespName) (args : List Cid) (s : State),
    s.associated = true → s.assocPending = .none → s.ncmPending = .none →
    (s.ncmValid = true → s.conn[s.ncmCid].connected = false) →
    classifyLine s.cfg (stripBody body) = .code c name args → stripBody body ≠ [] →
    (name = .disassoEvt ∨ name = .noip) → s.cfg.subtype c = some subtype →
    let t := after (.asyncDispatch subtype body) s
    let u := after .takeEvents t
    t.result = some (.dispatched true)
    ∧ (∀ k : Cid, s.conn[k].connected = true → t.conn[k].connected = false ∧ t.conn[k].error = true)
    ∧ u.result = some (.events 0x02 s.ncmCid)
    ∧ (after .takeEvents u).result = some (.events 0x00 s.ncmCid)

/-- ASSOC_UPDATE (44 R347, R349): the Associated edge is raised only when `associated` changes, and cancels an undelivered
Disassociated. NCM_CONNECT (R348): the association update, the connect of the CID, an older NCM CID replaced with its
disconnect edge, then the connect edge. TAKE_EVENTS (R357): bit 0 an NCM disconnect, bit 1 a disassociation, bit 2 an
association, bit 3 an NCM connect; the pending events are then cleared. -/
def Obligations.AssociationMicroOperations : Prop :=
  (∀ s : State, exec .assocUpdate s =
      if s.associated = true then .next { s with result := some .none }
      else .next { s with
        associated := true
        assocPending := if s.assocPending = .disassociated then .none else .associated
        result := some .none })
  ∧ (∀ (c : Cid) (s : State), exec (.ncmConnect c) s =
      let u := after (.connConnect c ⟨0, 0, 0, 0⟩ 0 0 false) (after .assocUpdate s)
      let pending := if u.ncmValid = true ∧ u.ncmCid ≠ c
        then (if u.ncmPending = .connected then .none else .disconnected) else u.ncmPending
      .next { u with
        ncmValid := true
        ncmCid := c
        ncmPending := if pending = .disconnected then .none else .connected
        result := some .none })
  ∧ (∀ s : State, ∃ ev : Byte, exec .takeEvents s = .next { s with
        assocPending := .none, ncmPending := .none, result := some (.events ev s.ncmCid) }
      ∧ ev.toNat = (if s.ncmPending = .disconnected then 1 else 0) + (if s.assocPending = .disassociated then 2 else 0)
        + (if s.assocPending = .associated then 4 else 0) + (if s.ncmPending = .connected then 8 else 0))

/-- ASYNC_DISPATCH (44 R340 to R342, R351): a body that is an event of the header's subtype has the effect of its code; a
code that is no event, and a subtype that does not match, are rejected. A malformed body, of only CR and LF or no line of
the grammar once its trailing CR and LF are gone, is rejected and logged without any other change. R340 gives the body 0 to
99 bytes; that a longer one is taken alike is the model's (log 19). -/
def Obligations.AsyncDispatchByCode : Prop :=
  (∀ (subtype : Cid) (body : List Byte) (c : Nat) (name : RespName) (args : List Cid) (s : State),
      stripBody body ≠ [] → classifyLine s.cfg (stripBody body) = .code c name args →
      let a := args.headD 0
      let accepted := fun (u : State) => Host.Outcome.next (φ := Fault) (ρ := Refusal)
        { u with result := some (.dispatched true) }
      let rejected := Host.Outcome.next (φ := Fault) (ρ := Refusal)
        { s with log := .asyncReject :: s.log, result := some (.dispatched false) }
      exec (.asyncDispatch subtype body) s =
        if s.cfg.subtype c = some subtype then
          match name with
          | .conSuccess => accepted (after (.connConnect a ⟨0, 0, 0, 0⟩ 0 0 false) s)
          | .sockFail => accepted (after (.connFail a) s)
          | .ecidclose => accepted (after (.connDisconnect a) s)
          | .disassoEvt | .noip => accepted (after .disassocCascade s)
          | .nwconnSuccess => accepted (after (.ncmConnect a) s)
          | .stbyTmrEvt | .stbyAlmEvt | .dpsleepEvt | .bootUnexpec | .bootInternal | .bootExternal => accepted s
          | .success | .failure | .einval | .enocid | .ebadcid | .enotsup | .linkLost => rejected
        else rejected)
  ∧ (∀ (subtype : Cid) (line ends : List Byte) (s : State), (∀ b ∈ ends, b = 0x0D ∨ b = 0x0A) →
      (∀ b ∈ line.getLast?, b ≠ 0x0D ∧ b ≠ 0x0A) →
      line = [] ∨ classifyLine s.cfg line = .unknown →
      exec (.asyncDispatch subtype (line ++ ends)) s =
        .next { s with log := .asyncReject :: s.log, result := some (.dispatched false) })

/-- CONN_QUERY (44 R355): the entry's 11 bytes after OK, and no state written. CONN_SET (R354) does CONN_CONNECT, ASSOC_SET
(R358) does ASSOC_UPDATE, and both answer OK; ASSOC_QUERY (R356) answers the association registers and writes none. -/
def Obligations.HostConnectionOperations : Prop :=
  (∀ (c : Cid) (s : State), s.alive → exec (.connQuery (BitVec.ofNat 8 c.val)) s = .next { s with
      result := some (.record [0x00, if s.conn[c].connected = true then 1 else 0,
        if s.conn[c].error = true then 1 else 0, s.conn[c].remoteIp.o1, s.conn[c].remoteIp.o2, s.conn[c].remoteIp.o3,
        s.conn[c].remoteIp.o4, BitVec.ofNat 8 s.conn[c].remotePort.toNat,
        BitVec.ofNat 8 (s.conn[c].remotePort.toNat / 256), BitVec.ofNat 8 s.conn[c].localPort.toNat,
        BitVec.ofNat 8 (s.conn[c].localPort.toNat / 256), if s.conn[c].sslEnabled = true then 1 else 0]) })
  ∧ (∀ s : State, s.alive →
      (∀ (c : Cid) (ip : IPv4) (rport lport : Half) (ssl : Bool),
        exec (.connSet (BitVec.ofNat 8 c.val) ip rport lport (if ssl = true then 1 else 0)) s =
          .next { after (.connConnect c ip rport lport ssl) s with result := some (.record [0x00]) })
      ∧ exec .assocSet s = .next { after .assocUpdate s with result := some (.record [0x00]) }
      ∧ exec .assocQuery s = .next { s with result := some (.record [0x00, if s.associated = true then 1 else 0,
          match s.assocPending with | .none => 0 | .associated => 1 | .disassociated => 2,
          match s.ncmPending with | .none => 0 | .connected => 1 | .disconnected => 2,
          if s.ncmValid = true then 1 else 0, BitVec.ofNat 8 s.ncmCid.val]) })

/-! ## Parsers and formatters -/

/-- PARSE_INT (45 R390 to R392): the value the characters spell in the base if all are its digits and the full value fits
the destination width; a failure otherwise, and for a base outside 2..36. No register is written. For no characters and a
base outside 2..36 at once, R390 names both answers; that it is a failure is the model's reading (log 21). -/
def Obligations.ParseIntValue : Prop :=
  ∀ (base : Byte) (width : IntWidth) (chars : List Byte) (s : State), exec (.parseInt base width chars) s =
    .next { s with result := some (.number (
      if base.toNat < 2 ∨ 36 < base.toNat then none
      else (spelledIn base.toNat chars 0).filter
        (fun v => v < 2 ^ (match width with | .w8 => 8 | .w16 => 16 | .w32 => 32)))) }

/-- PARSE_IP (45 R393, R394) accepts exactly one to four groups of one to three decimal digits, each at most 255,
separated by single dots, and reads the octets of missing groups as 0. No register is written. -/
def Obligations.ParseIpAcceptsDottedGroups : Prop :=
  ∀ (chars : List Byte) (s : State), ∃ r : Option ParsedIp,
    exec (.parseIp chars) s = .next { s with result := some (.address r) }
    ∧ ∀ a : ParsedIp, r = some a ↔
      ∃ (groups : List (List Byte)) (values : List Nat), 1 ≤ groups.length ∧ groups.length ≤ 4
        ∧ chars = List.flatten (groups.intersperse [0x2E])
        ∧ List.Forall₂ (fun g v => 1 ≤ g.length ∧ g.length ≤ 3 ∧ (∀ b ∈ g, 0x30 ≤ b.toNat ∧ b.toNat ≤ 0x39)
            ∧ spelledIn 10 g 0 = some v ∧ v ≤ 255) groups values
        ∧ a = ⟨groups.length, ⟨BitVec.ofNat 8 (values.getD 0 0), BitVec.ofNat 8 (values.getD 1 0),
            BitVec.ofNat 8 (values.getD 2 0), BitVec.ofNat 8 (values.getD 3 0)⟩⟩

/-- The forms of FORMAT_FIELDS (45 R395, 30 R104, R106, R111, R112) spelled out; `dec4` is stated for the values the rule
gives it. -/
def Obligations.FormatFieldsForms : Prop :=
  ∀ s : State,
    let text := fun (bytes : List Byte) => Host.Outcome.next (φ := Fault) (ρ := Refusal)
      { s with result := some (.text bytes) }
    let dec := fun (v : Nat) => (Nat.toDigits 10 v).map (fun ch => BitVec.ofNat 8 ch.toNat)
    let dec4 := fun (v : Nat) => [BitVec.ofNat 8 (0x30 + v / 1000), BitVec.ofNat 8 (0x30 + v / 100 % 10),
      BitVec.ofNat 8 (0x30 + v / 10 % 10), BitVec.ofNat 8 (0x30 + v % 10)]
    let hex := fun (v : Cid) => [BitVec.ofNat 8 (if v.val < 10 then 0x30 + v.val else 0x41 + v.val - 10)]
    let dots := fun (ip : IPv4) => dec ip.o1.toNat ++ [0x2E] ++ dec ip.o2.toNat ++ [0x2E] ++ dec ip.o3.toNat ++ [0x2E]
      ++ dec ip.o4.toNat
    (∀ v : Cid, exec (.formatFields (.hexU v)) s = text (hex v))
    ∧ (∀ v : Half, v.toNat ≤ 9999 → exec (.formatFields (.dec4 v)) s = text (dec4 v.toNat))
    ∧ (∀ v : Half, exec (.formatFields (.decN v)) s = text (dec v.toNat))
    ∧ (∀ ip : IPv4, exec (.formatFields (.dotted ip)) s = text (dots ip))
    ∧ (∀ h : FrameHeader, h.length.toNat ≤ 9999 → exec (.formatFields (.rxHeader h)) s = text (
        if h.udp = true then [s.cfg.escChar, s.cfg.introY] ++ hex h.cid ++ dots h.ip ++ [0x20] ++ dec h.port.toNat
          ++ [0x09] ++ dec4 h.length.toNat
        else [s.cfg.escChar, s.cfg.introZ] ++ hex h.cid ++ dec4 h.length.toNat))
    ∧ (∀ (c : Cid) (n : Half), n.toNat ≤ 9999 → exec (.formatFields (.txHeader c n)) s =
        text ([s.cfg.escChar, s.cfg.introZ] ++ hex c ++ dec4 n.toNat))
    ∧ (s.cfg.txAddressed = [.esc, .lit 0x59, .cid, .ip, .lit 0x3A, .port, .lit 0x3A, .len] →
        ∀ (c : Cid) (ip : IPv4) (port n : Half), n.toNat ≤ 9999 → exec (.formatFields (.txAddr c ip port n)) s =
          text ([s.cfg.escChar, 0x59] ++ hex c ++ dots ip ++ [0x3A] ++ dec port.toNat ++ [0x3A] ++ dec4 n.toNat))

/-- The parser and formatter round trips (45 R396). -/
def Obligations.FormatThenParse : Prop :=
  ∀ s : State,
    let formatted := fun (f : FormatArg) => match (after (.formatFields f) s).result with
      | some (.text bytes) => bytes
      | _ => []
    (∀ v : Cid, (after (.parseInt 16 .w8 (formatted (.hexU v))) s).result = some (.number (some v.val)))
    ∧ (∀ v : Half, v.toNat ≤ 9999 →
        (after (.parseInt 10 .w16 (formatted (.dec4 v))) s).result = some (.number (some v.toNat)))
    ∧ (∀ v : Half, (after (.parseInt 10 .w16 (formatted (.decN v))) s).result = some (.number (some v.toNat)))
    ∧ (∀ ip : IPv4, (after (.parseIp (formatted (.dotted ip))) s).result = some (.address (some ⟨4, ip⟩)))

/-! ## Host operations -/

/-- POLL (46 R420). In STREAM mode a byte on the link goes through RX_PROCESS and is OK, a line byte discarded; no byte is
ERR_NO_BYTE. In both modes it makes one CODEC_RECV: a storm is ERR_UNRECOVERABLE, no data byte ERR_NO_BYTE, and a data byte
goes through RX_PROCESS. So in BUS mode it is ERR_NO_BYTE for every control value, and for ALL-ONES until the 20th in a
row, and OK for a data value. -/
def Obligations.PollTakesOneByte : Prop :=
  (∀ (a : Option Byte) (rest : List (Option Byte)) (s : State), s.alive → s.linkMode = .stream →
    s.env.linkReads = a :: rest →
    let u := { s with env := { s.env with linkReads := rest }, trace := .read a :: s.trace }
    exec .poll s = .next (match a with
      | some b => { after (.rxProcess b) u with result := some (.record [0x00]) }
      | none => { u with result := some (.record [0x0B]) }))
  ∧ (∀ s : State, s.alive →
    let t := after .codecRecv s
    exec .poll s = .next (
      if t.unrecoverable = true then { t with result := some (.record [0x02]) }
      else match t.result with
        | some (.byte (some b)) => { after (.rxProcess b) t with result := some (.record [0x00]) }
        | _ => { t with result := some (.record [0x0B]) }))
  ∧ (∀ (r : Byte) (rest : List Byte) (q : List Bool) (s : State), s.cfg.valid = true → s.alive → s.linkMode = .bus →
    s.escPending = false → s.env.dataReady = true :: q → s.env.exchanges = r :: rest →
    let t := after .poll s
    exec .poll s = .next t
    ∧ t.env = { s.env with dataReady := q, exchanges := rest }
    ∧ t.trace = .exchange s.cfg.busIdle r :: .ready true :: s.trace
    ∧ t.result = some (.record [
        if r = 0xFF then (if 19 ≤ s.allOnesRun then 0x02 else 0x0B)
        else if r ∈ s.cfg.reserved then 0x0B
        else 0x00]))

/-- The read operations with bytes of the live tail frame buffered make no poll. PEEK, READ and READ_ANY (46 R430 to R432, 60
R487): a CID other than the tail frame's is NO_DATA_OTHER_CID; PEEK leaves the byte, READ and READ_ANY take it. FIRST_CID,
AVAILABLE and AVAILABLE_ANY (R434 to R436): the tail frame's CID, and the count of its buffered bytes, 0 for another CID;
no state is written. -/
def Obligations.BufferedReads : Prop :=
  (∀ (c : Cid) (s : State), s.alive → 0 < s.tail.length.toNat → 0 < s.used →
      let byte := s.ring.read s.tailIdx
      let taken := { s with
        tailIdx := (s.tailIdx + 1) % s.cfg.ringCap, tail := { s.tail with length := s.tail.length - 1 } }
      (s.tail.cid = c →
        exec (.peek (BitVec.ofNat 8 c.val)) s = .next { s with result := some (.record [0x00, byte]) }
        ∧ exec (.read (BitVec.ofNat 8 c.val)) s = .next { taken with result := some (.record [0x00, byte]) }
        ∧ exec .readAny s = .next { taken with result := some (.record [0x00, BitVec.ofNat 8 c.val, byte]) })
      ∧ (s.tail.cid ≠ c → ∀ (n : Half), ∀ i ∈ [Instr.peek (BitVec.ofNat 8 c.val), .read (BitVec.ofNat 8 c.val),
          .readBuf (BitVec.ofNat 8 c.val) n], exec i s = .next { s with result := some (.record [0x05]) }))
  ∧ (∀ (c : Cid) (s : State), s.alive → 0 < s.tail.length.toNat → 0 < s.used →
      let k := min s.tail.length.toNat s.used
      let count := [BitVec.ofNat 8 k, BitVec.ofNat 8 (k / 256)]
      exec .firstCid s = .next { s with result := some (.record [0x00, BitVec.ofNat 8 s.tail.cid.val]) }
      ∧ exec (.available (BitVec.ofNat 8 c.val)) s = .next { s with
          result := some (.record (0x00 :: if s.tail.cid = c then count else [0, 0])) }
      ∧ exec .availableAny s = .next { s with result := some (.record (0x00 :: count)) })

/-- READ_BUF (46 R433) with bytes buffered: as many bytes of the tail frame as are buffered and asked for, in order, never
of the next frame, and the cursor moves behind them. -/
def Obligations.ReadBufCopiesTheTailFrame : Prop :=
  ∀ (n : Half) (s : State), s.alive → s.registersOk = true → 0 < s.tail.length.toNat → 0 < s.used →
    let k := min n.toNat (min s.tail.length.toNat s.used)
    exec (.readBuf (BitVec.ofNat 8 s.tail.cid.val) n) s = .next { s with
      tailIdx := (s.tailIdx + k) % s.cfg.ringCap
      tail := { s.tail with length := BitVec.ofNat 16 (s.tail.length.toNat - k) }
      result := some (.record ([0x00, BitVec.ofNat 8 k, BitVec.ofNat 8 (k / 256)]
        ++ (List.range k).map (fun j => s.ring.read ((s.tailIdx + j) % s.cfg.ringCap)))) }

/-- With nothing buffered every read operation polls the link exactly once (46 R421, R430 to R436). If the poll brings no
byte: EMPTY, or a count of 0, with no frame live; with a live tail frame of which nothing has come, the same for its CID,
and NO_DATA_OTHER_CID for another CID of PEEK, READ and READ_BUF. If it brings a payload byte of the tail frame, the byte
goes through RX_PROCESS into the ring and is the byte the operation answers; PEEK leaves it, READ, READ_ANY and READ_BUF
take it. -/
def Obligations.ReadsPollOnceWhenEmpty : Prop :=
  (∀ (c : Cid) (n : Half) (rest : List (Option Byte)) (s : State), s.alive → s.linkMode = .stream →
    s.registersOk = true → s.ringEmpty → s.env.linkReads = none :: rest →
    let u := { s with env := { s.env with linkReads := rest }, trace := .read none :: s.trace }
    (∀ i ∈ [Instr.peek (BitVec.ofNat 8 c.val), .read (BitVec.ofNat 8 c.val), .readBuf (BitVec.ofNat 8 c.val) n,
        .readAny, .firstCid], exec i s = .next { u with result := some (.record [0x06]) })
    ∧ (∀ i ∈ [Instr.available (BitVec.ofNat 8 c.val), .availableAny],
        exec i s = .next { u with result := some (.record [0x00, 0x00, 0x00]) }))
  ∧ (∀ (c : Cid) (n : Half) (rest : List (Option Byte)) (s : State), s.alive → s.linkMode = .stream →
    s.registersOk = true → 0 < s.tail.length.toNat → s.headIdx = s.tailIdx → s.env.linkReads = none :: rest →
    let u := { s with env := { s.env with linkReads := rest }, trace := .read none :: s.trace }
    (∀ i ∈ [Instr.peek (BitVec.ofNat 8 c.val), .read (BitVec.ofNat 8 c.val)],
        exec i s = .next { u with result := some (.record [if s.tail.cid = c then 0x06 else 0x05]) })
    ∧ exec (.readBuf (BitVec.ofNat 8 c.val) n) s = .next { u with
        result := some (.record (if s.tail.cid = c then [0x00, 0x00, 0x00] else [0x05])) }
    ∧ (∀ i ∈ [Instr.readAny, .firstCid], exec i s = .next { u with result := some (.record [0x06]) })
    ∧ (∀ i ∈ [Instr.available (BitVec.ofNat 8 c.val), .availableAny],
        exec i s = .next { u with result := some (.record [0x00, 0x00, 0x00]) }))
  ∧ (∀ (c : Cid) (n : Half) (b : Byte) (rest : List (Option Byte)) (s : State), s.Inv → s.alive →
    s.linkMode = .stream → s.rxState = .bulk → 0 < s.tail.length.toNat → s.headIdx = s.tailIdx →
    s.env.linkReads = some b :: rest →
    let t := after (.rxProcess b) { s with
      env := { s.env with linkReads := rest }, trace := .read (some b) :: s.trace }
    let taken := { t with
      tailIdx := (s.tailIdx + 1) % s.cfg.ringCap, tail := { s.tail with length := s.tail.length - 1 } }
    let cid := BitVec.ofNat 8 s.tail.cid.val
    exec (.peek cid) s = .next { t with result := some (.record [0x00, b]) }
    ∧ exec (.read cid) s = .next { taken with result := some (.record [0x00, b]) }
    ∧ exec .readAny s = .next { taken with result := some (.record [0x00, cid, b]) }
    ∧ exec (.readBuf cid n) s = .next (if n = 0 then { t with result := some (.record [0x00, 0x00, 0x00]) }
        else { taken with result := some (.record [0x00, 0x01, 0x00, b]) })
    ∧ exec .firstCid s = .next { t with result := some (.record [0x00, cid]) }
    ∧ exec .availableAny s = .next { t with result := some (.record [0x00, 0x01, 0x00]) }
    ∧ exec (.available (BitVec.ofNat 8 c.val)) s = .next { t with
        result := some (.record [0x00, if s.tail.cid = c then 0x01 else 0x00, 0x00]) }
    ∧ (s.tail.cid ≠ c → ∀ i ∈ [Instr.peek (BitVec.ofNat 8 c.val), .read (BitVec.ofNat 8 c.val),
        .readBuf (BitVec.ofNat 8 c.val) n], exec i s = .next { t with result := some (.record [0x05]) }))

/-- SERVICE with no byte on the link (46 R455, 44 R357): OK with the pending events and the NCM CID; each pending event is
delivered once. SERVICE returns promptly: in STREAM mode it makes at most SERVICE_MAX_ITER link calls, and in BUS mode at
most two for each of as many polls. -/
def Obligations.ServiceDeliversPendingEvents : Prop :=
  (∀ (rest : List (Option Byte)) (s : State), s.cfg.valid = true → s.alive → s.linkMode = .stream →
      s.env.linkReads = none :: rest →
      let bits := (if s.ncmPending = .disconnected then 1 else 0) + (if s.assocPending = .disassociated then 2 else 0)
        + (if s.assocPending = .associated then 4 else 0) + (if s.ncmPending = .connected then 8 else 0)
      exec .service s = .next { s with
        env := { s.env with linkReads := rest }, trace := .read none :: s.trace
        assocPending := .none, ncmPending := .none
        result := some (.record [0x00, BitVec.ofNat 8 bits, BitVec.ofNat 8 s.ncmCid.val]) })
  ∧ (∀ s t : State, exec .service s = .next t →
      t.trace.length ≤ s.trace.length + s.cfg.serviceMaxIter * (if s.linkMode = .stream then 1 else 2))

/-- SERVICE stops on entering a frame (46 R455): it takes the 7 bytes of a bulk header and leaves the payload on the
link. -/
def Obligations.ServiceStopsAtTheFrame : Prop :=
  ∀ (h : FrameHeader) (payload : List (Option Byte)) (s : State), s.Inv → s.alive → s.linkMode = .stream →
    s.rxState = .idle → h.udp = false → plainIsBare h → 0 < h.length.toNat → h.length.toNat ≤ 9999 →
    7 ≤ s.cfg.serviceMaxIter → s.env.linkReads = (encodeRxHeader s.cfg h).map some ++ payload →
    ∃ (t : State) (ev cid : Byte), exec .service s = .next t ∧ t.result = some (.record [0x00, ev, cid])
      ∧ t.rxState = .bulk ∧ t.head = h ∧ t.env.linkReads = payload

/-- WRITE and WRITE_TO of no data answer OK with no frame, and of data on a CID that is not connected
ERR_NOT_CONNECTED, with no link call (46 R440, R441; 60 R487). -/
def Obligations.WriteChecksBeforeSending : Prop :=
  ∀ (c : Cid) (ip : IPv4) (port : Half) (data : List Byte) (s : State), s.alive →
    ∀ i ∈ [Instr.write (BitVec.ofNat 8 c.val) data, .writeTo (BitVec.ofNat 8 c.val) ip port data],
      (data = [] → exec i s = .next { s with activity := none, result := some (.record [0x00, 0x00, 0x00]) })
      ∧ (data ≠ [] → s.conn[c].connected = false →
          exec i s = .next { s with activity := none, result := some (.record [0x04]) })

/-- WRITE and WRITE_TO split their data (46 R440 to R442, R444): with every frame accepted, exactly ceil(len / 1400)
frames go out, each with its header and at most 1400 bytes, in order, with no byte repeated or lost, and the result is OK
with their number. In BUS mode (the module answers BUS_IDLE while the block sends) each byte goes out in its escaped form
(30 R101). -/
def Obligations.WriteSendsEveryFrame : Prop :=
  (∀ (c : Cid) (addr : Option NetAddr) (data : List Byte) (rest : List (Option Byte)) (s : State), s.alive →
    lettersDiffer s.cfg → s.linkMode = .stream → s.rxState = .idle → s.cfg.awaitDataResponse = true →
    s.conn[c].connected = true → data ≠ [] → data.length < 65536 →
    s.env.linkReads =
      (List.replicate (frameCount data) [some s.cfg.escChar, some s.cfg.introOk]).flatten ++ rest →
    exec (match addr with
        | none => .write (BitVec.ofNat 8 c.val) data
        | some a => .writeTo (BitVec.ofNat 8 c.val) a.ip a.port data) s = .next { s with
      env := { s.env with linkReads := rest }
      trace := ((framesOf (frameCount data) data).flatMap fun f =>
        (frameBytes s.cfg c addr f).map LinkEvent.write
          ++ [.read (some s.cfg.escChar), .read (some s.cfg.introOk)]).reverse ++ s.trace
      dataResp := .ok, dataWait := false, scratchLen := 0
      activity := none
      result := some (.record [0x00, BitVec.ofNat 8 (frameCount data), 0x00]) })
  ∧ (∀ (c : Cid) (addr : Option NetAddr) (data rest : List Byte) (q : List Bool) (s : State), s.cfg.valid = true →
    s.alive → lettersDiffer s.cfg → s.cfg.escChar ∉ s.cfg.reserved → s.cfg.introOk ∉ s.cfg.reserved →
    s.linkMode = .bus → s.paused = false → s.escPending = false → s.rxState = .idle →
    s.conn[c].connected = true → data ≠ [] → data.length < 65536 →
    let wire := fun f => (frameBytes s.cfg c addr f).flatMap fun b =>
      if b ∈ s.cfg.reserved then [s.cfg.busEsc, b ^^^ s.cfg.busMask] else [b]
    let frames := framesOf (frameCount data) data
    s.env.exchanges = (frames.flatMap fun f =>
      List.replicate (wire f).length s.cfg.busIdle ++ [s.cfg.escChar, s.cfg.introOk]) ++ rest →
    s.env.dataReady = List.replicate (2 * frameCount data) true ++ q →
    exec (match addr with
        | none => .write (BitVec.ofNat 8 c.val) data
        | some a => .writeTo (BitVec.ofNat 8 c.val) a.ip a.port data) s = .next { s with
      env := { s.env with exchanges := rest, dataReady := q }
      trace := (frames.flatMap fun f =>
        (wire f).map (fun b => LinkEvent.exchange b s.cfg.busIdle)
          ++ [.ready true, .exchange s.cfg.busIdle s.cfg.escChar, .ready true,
            .exchange s.cfg.busIdle s.cfg.introOk]).reverse ++ s.trace
      allOnesRun := 0
      dataResp := .ok, dataWait := false, scratchLen := 0
      activity := none
      result := some (.record [0x00, BitVec.ofNat 8 (frameCount data), 0x00]) })

/-- The failure of a frame ends a WRITE or WRITE_TO (46 R440, R441, R444), in STREAM mode: if the module refuses frame j,
the frames after it are not sent and the result is ERR_DATA_REJECTED. The connection is tested before every frame: if an
event record that disconnects the CID comes in while frame j waits for its answer, the next frame is not sent and the
result is ERR_NOT_CONNECTED (60 R487). -/
def Obligations.RejectedFrameEndsTheWrite : Prop :=
  (∀ (c : Cid) (addr : Option NetAddr) (data : List Byte) (j : Nat) (rest : List (Option Byte)) (s : State), s.alive →
    lettersDiffer s.cfg → s.linkMode = .stream → s.rxState = .idle → s.cfg.awaitDataResponse = true →
    s.conn[c].connected = true → data.length < 65536 → j < frameCount data →
    s.env.linkReads = (List.replicate j [some s.cfg.escChar, some s.cfg.introOk]).flatten
      ++ some s.cfg.escChar :: some s.cfg.introFail :: rest →
    ∃ t : State, exec (match addr with
        | none => .write (BitVec.ofNat 8 c.val) data
        | some a => .writeTo (BitVec.ofNat 8 c.val) a.ip a.port data) s = .next t
      ∧ t.result = some (.record [0x08])
      ∧ t.activity = none ∧ t.dataWait = false ∧ t.env.linkReads = rest
      ∧ t.trace.filter (fun e => match e with | .write _ => true | _ => false) =
        (((framesOf (j + 1) data).flatMap (frameBytes s.cfg c addr)).map LinkEvent.write).reverse
          ++ s.trace.filter (fun e => match e with | .write _ => true | _ => false))
  ∧ (∀ (c : Cid) (addr : Option NetAddr) (data : List Byte) (j : Nat) (subtype : Cid) (body : List Byte)
    (rest : List (Option Byte)) (s : State), s.Inv → s.alive →
    lettersDiffer s.cfg → s.linkMode = .stream → s.rxState = .idle →
    s.conn[c].connected = true → data.length < 65536 → j + 1 < frameCount data → body.length ≤ 99 →
    (after (.asyncDispatch subtype body) s).conn[c].connected = false →
    s.env.linkReads = (List.replicate j [some s.cfg.escChar, some s.cfg.introOk]).flatten
      ++ ([s.cfg.escChar, s.cfg.introA, hexU subtype, BitVec.ofNat 8 (0x30 + body.length / 10),
        BitVec.ofNat 8 (0x30 + body.length % 10)] ++ body ++ [s.cfg.escChar, s.cfg.introOk]).map some ++ rest →
    ∃ t : State, exec (match addr with
        | none => .write (BitVec.ofNat 8 c.val) data
        | some a => .writeTo (BitVec.ofNat 8 c.val) a.ip a.port data) s = .next t
      ∧ t.result = some (.record [0x04])
      ∧ t.activity = none ∧ t.dataWait = false ∧ t.env.linkReads = rest
      ∧ t.conn = (after (.asyncDispatch subtype body) s).conn
      ∧ t.trace.filter (fun e => match e with | .write _ => true | _ => false) =
        (((framesOf (j + 1) data).flatMap (frameBytes s.cfg c addr)).map LinkEvent.write).reverse
          ++ s.trace.filter (fun e => match e with | .write _ => true | _ => false))

/-- WRITE_FRAME (46 R442) sends the header and the data, waits for the module's answer, and reports it; `dataWait` is 1
only while it waits. In BUS mode each byte goes out in its escaped form (30 R101; the module answers BUS_IDLE meanwhile).
R442 gives it 1 to 1400 bytes of data; that it does the same for no data and for more is the model's (log 19), with a header
that is a free value above 9999 (log 14). WAIT_DATA_RESP (R443): an answer that has come ends it at once with no link call;
with none come, no byte on the link and Expired, it leaves the block dead with cause DATA_RESPONSE_TIMEOUT. -/
def Obligations.DataResponseWait : Prop :=
  (∀ (c : Cid) (addr : Option NetAddr) (data : List Byte) (accepted : Bool) (rest : List (Option Byte)) (s : State),
      s.unrecoverable = false → lettersDiffer s.cfg → s.linkMode = .stream → s.rxState = .idle →
      s.cfg.awaitDataResponse = true →
      let letter := if accepted = true then s.cfg.introOk else s.cfg.introFail
      s.env.linkReads = some s.cfg.escChar :: some letter :: rest →
      exec (.writeFrame c addr data) s = .next { s with
        env := { s.env with linkReads := rest }
        trace := .read (some letter) :: .read (some s.cfg.escChar) ::
          (((frameBytes s.cfg c addr data).map LinkEvent.write).reverse ++ s.trace)
        dataResp := if accepted = true then .ok else .fail
        dataWait := false, scratchLen := 0
        activity := none
        result := some (.code (if accepted = true then .ok else .errDataRejected)) })
  ∧ (∀ (c : Cid) (addr : Option NetAddr) (data : List Byte) (accepted : Bool) (rest : List Byte) (q : List Bool)
      (s : State), s.cfg.valid = true → s.unrecoverable = false → lettersDiffer s.cfg → s.linkMode = .bus →
      s.paused = false → s.escPending = false → s.rxState = .idle →
      let letter := if accepted = true then s.cfg.introOk else s.cfg.introFail
      let wire := (frameBytes s.cfg c addr data).flatMap fun b =>
        if b ∈ s.cfg.reserved then [s.cfg.busEsc, b ^^^ s.cfg.busMask] else [b]
      s.cfg.escChar ∉ s.cfg.reserved → letter ∉ s.cfg.reserved →
      s.env.exchanges = List.replicate wire.length s.cfg.busIdle ++ s.cfg.escChar :: letter :: rest →
      s.env.dataReady = true :: true :: q →
      exec (.writeFrame c addr data) s = .next { s with
        env := { s.env with exchanges := rest, dataReady := q }
        trace := .exchange s.cfg.busIdle letter :: .ready true :: .exchange s.cfg.busIdle s.cfg.escChar :: .ready true ::
          ((wire.map fun b => LinkEvent.exchange b s.cfg.busIdle).reverse ++ s.trace)
        allOnesRun := 0
        dataResp := if accepted = true then .ok else .fail
        dataWait := false, scratchLen := 0
        activity := none
        result := some (.code (if accepted = true then .ok else .errDataRejected)) })
  ∧ (∀ s : State,
      (s.dataResp = .ok → exec .waitDataResp s = .next { s with activity := none, result := some (.code .ok) })
      ∧ (s.dataResp = .fail →
          exec .waitDataResp s = .next { s with activity := none, result := some (.code .errDataRejected) })
      ∧ (∀ (rest : List (Option Byte)) (q : List Bool), s.dataResp = .none → s.unrecoverable = false →
          s.linkMode = .stream → s.env.linkReads = none :: rest → s.env.expired = true :: q →
          exec .waitDataResp s = .next { s with
            env := { s.env with linkReads := rest, expired := q }
            trace := .expired true :: .read none :: s.trace
            unrecoverable := true, fatalCause := .dataResponseTimeout
            activity := none
            result := some (.code .errUnrecoverable) }))
end

