-- ==== Sys2Proof/Laws/Memory.lean ====
section
/-! SUPPORT. The storage spaces (20_memory.md R70, R80): every write keeps the canonical form and the space, a read after a
write gives the byte written, and a write leaves every other cell alone. -/

namespace Sys2Proof.Machine

/-! ## Reading a list of cells -/

@[simp] theorem Memory.read_nil (a : Nat) : Memory.read [] a = unwritten := rfl

@[simp] theorem Memory.read_cell (k a : Nat) (v : Byte) (m : Memory) :
    Memory.read ((k, v) :: m) a = if k = a then v else Memory.read m a := rfl

/-- An address below every listed one reads as an unlisted address. -/
theorem Memory.read_below (m : Memory) (a : Nat) (h : ∀ c ∈ m, a < c.1) : m.read a = unwritten := by
  induction m with
  | nil => rfl
  | cons c m ih =>
    have hc := h c (by simp)
    rw [show c = (c.1, c.2) from rfl, Memory.read_cell, if_neg (by omega)]
    exact ih fun d hd => h d (by simp [hd])

/-- The canonical form, cell by cell. -/
theorem Memory.wf_cell (k : Nat) (v : Byte) (m : Memory) :
    Memory.wf ((k, v) :: m) = true ↔ v ≠ unwritten ∧ (∀ c ∈ m, k < c.1) ∧ m.wf = true := by
  simp [Memory.wf, and_assoc]

/-! ## A write -/

theorem Memory.read_cons (a b : Nat) (v : Byte) (m : Memory) (h : ∀ c ∈ m, a < c.1) :
    (Memory.cons a v m).read b = if a = b then v else m.read b := by
  unfold Memory.cons
  split
  · next hv =>
    split
    · next hab => subst hab; rw [hv, Memory.read_below m a h]
    · rfl
  · rfl

theorem Memory.wf_cons (a : Nat) (v : Byte) (m : Memory) (h : ∀ c ∈ m, a < c.1) (hm : m.wf = true) :
    (Memory.cons a v m).wf = true := by
  unfold Memory.cons
  split
  · exact hm
  · next hv => exact (Memory.wf_cell a v m).2 ⟨hv, h, hm⟩

theorem Memory.mem_cons (a : Nat) (v : Byte) (m : Memory) (c : Host.Cell) (h : c ∈ Memory.cons a v m) :
    c.1 = a ∨ c ∈ m := by
  unfold Memory.cons at h
  split at h
  · exact .inr h
  · rcases List.mem_cons.1 h with h | h
    · exact .inl (by rw [h])
    · exact .inr h

/-- The addresses a write can list. -/
theorem Memory.mem_write (m : Memory) (a : Nat) (v : Byte) (c : Host.Cell) (h : c ∈ m.write a v) :
    c.1 = a ∨ c ∈ m := by
  induction m with
  | nil => exact Memory.mem_cons a v [] c h
  | cons d m ih =>
    obtain ⟨k, w⟩ := d
    unfold Memory.write at h
    split at h
    · exact Memory.mem_cons a v _ c h
    · split at h
      · rcases Memory.mem_cons a v m c h with h | h
        · exact .inl h
        · exact .inr (by simp [h])
      · rcases List.mem_cons.1 h with h | h
        · exact .inr (by simp [h])
        · rcases ih h with h | h
          · exact .inl h
          · exact .inr (by simp [h])

/-- A write keeps the canonical form. -/
theorem Memory.wf_write (m : Memory) (a : Nat) (v : Byte) (hm : m.wf = true) : (m.write a v).wf = true := by
  induction m with
  | nil => exact Memory.wf_cons a v [] (by simp) rfl
  | cons d m ih =>
    obtain ⟨k, w⟩ := d
    obtain ⟨hw, hk, hm'⟩ := (Memory.wf_cell k w m).1 hm
    unfold Memory.write
    split
    · next hak =>
      refine Memory.wf_cons a v _ (fun c hc => ?_) hm
      rcases List.mem_cons.1 hc with rfl | hc
      · exact hak
      · exact Nat.lt_trans hak (hk c hc)
    · split
      · next hak => subst hak; exact Memory.wf_cons a v m hk hm'
      · refine (Memory.wf_cell k w _).2 ⟨hw, fun c hc => ?_, ih hm'⟩
        rcases Memory.mem_write m a v c hc with hca | hc
        · omega
        · exact hk c hc

/-- What a write changes: the cell written, and no other. -/
theorem Memory.read_write (m : Memory) (a b : Nat) (v : Byte) (hm : m.wf = true) :
    (m.write a v).read b = if a = b then v else m.read b := by
  induction m with
  | nil => exact Memory.read_cons a b v [] (by simp)
  | cons d m ih =>
    obtain ⟨k, w⟩ := d
    obtain ⟨hw, hk, hm'⟩ := (Memory.wf_cell k w m).1 hm
    unfold Memory.write
    split
    · next hak =>
      refine Memory.read_cons a b v _ (fun c hc => ?_)
      rcases List.mem_cons.1 hc with rfl | hc
      · exact hak
      · exact Nat.lt_trans hak (hk c hc)
    · split
      · next hak =>
        subst hak
        rw [Memory.read_cons a b v m hk, Memory.read_cell]
        split <;> rfl
      · next h1 h2 =>
        rw [Memory.read_cell, Memory.read_cell, ih hm']
        split
        · next hkb => rw [if_neg (by omega)]
        · rfl

theorem Memory.read_write_same (m : Memory) (a : Nat) (v : Byte) (hm : m.wf = true) : (m.write a v).read a = v := by
  rw [Memory.read_write m a a v hm, if_pos rfl]

theorem Memory.read_write_other (m : Memory) (a b : Nat) (v : Byte) (hm : m.wf = true) (h : a ≠ b) :
    (m.write a v).read b = m.read b := by
  rw [Memory.read_write m a b v hm, if_neg h]

/-- A write to a cell of the space stays in the space. -/
theorem Memory.within_write (m : Memory) (a n : Nat) (v : Byte) (hm : m.within n = true) (ha : a < n) :
    (m.write a v).within n = true := by
  simp only [Memory.within, List.all_eq_true, decide_eq_true_eq] at hm ⊢
  intro c hc
  rcases Memory.mem_write m a v c hc with h | h
  · omega
  · exact hm c h

/-! ## A write of consecutive bytes -/

theorem Memory.wf_writeList (bs : List Byte) (m : Memory) (a : Nat) (hm : m.wf = true) :
    (m.writeList a bs).wf = true := by
  induction bs generalizing m a with
  | nil => exact hm
  | cons b bs ih => exact ih _ _ (Memory.wf_write m a b hm)

theorem Memory.within_writeList (bs : List Byte) (m : Memory) (a n : Nat) (hm : m.within n = true)
    (ha : a + bs.length ≤ n) : (m.writeList a bs).within n = true := by
  induction bs generalizing m a with
  | nil => exact hm
  | cons b bs ih =>
    simp only [List.length_cons] at ha
    exact ih _ _ (Memory.within_write m a n b hm (by omega)) (by omega)

/-- What a write of consecutive bytes changes. -/
theorem Memory.read_writeList (bs : List Byte) (m : Memory) (a b : Nat) (hm : m.wf = true) :
    (m.writeList a bs).read b = if a ≤ b ∧ b < a + bs.length then bs.getD (b - a) 0 else m.read b := by
  induction bs generalizing m a with
  | nil => rw [Memory.writeList, if_neg (by simp)]
  | cons c bs ih =>
    rw [Memory.writeList, ih _ _ (Memory.wf_write m a c hm), Memory.read_write m a b c hm]
    simp only [List.length_cons]
    rcases Nat.lt_trichotomy b a with h | h | h
    · rw [if_neg (by omega), if_neg (by omega), if_neg (by omega)]
    · subst h
      rw [if_neg (by omega), if_pos rfl, if_pos (by omega)]
      simp
    · by_cases h' : b < a + (bs.length + 1)
      · rw [if_pos (by omega), if_pos (by omega), show b - a = (b - (a + 1)) + 1 by omega]
        simp
      · rw [if_neg (by omega), if_neg (by omega), if_neg (by omega)]

/-- Reading back a run of cells. -/
theorem Memory.readN_eq_map (m : Memory) (a n : Nat) : m.readN a n = (List.range n).map fun k => m.read (a + k) := by
  induction n generalizing a with
  | zero => rfl
  | succ n ih =>
    rw [Memory.readN, ih, List.range_succ_eq_map]
    simp [Nat.add_comm, Nat.add_left_comm]

@[simp] theorem Memory.length_readN (m : Memory) (a n : Nat) : (m.readN a n).length = n := by
  simp [Memory.readN_eq_map]

/-- Consecutive bytes read back as they were written. -/
theorem Memory.readN_writeList (bs : List Byte) (m : Memory) (a : Nat) (hm : m.wf = true) :
    (m.writeList a bs).readN a bs.length = bs := by
  apply List.ext_getElem
  · simp
  · intro k h1 h2
    simp only [Memory.readN_eq_map, List.getElem_map, List.getElem_range]
    rw [Memory.read_writeList bs m a (a + k) hm, if_pos (by omega)]
    simp [h2]

/-- The storage spaces of every power-on state have the canonical form. -/
theorem State.resetWith_memory (cfg : Config) : (State.resetWith cfg).ring.wf = true
    ∧ (State.resetWith cfg).scratch.wf = true ∧ (State.resetWith cfg).asyncBuf.wf = true := ⟨rfl, rfl, rfl⟩

end Sys2Proof.Machine
end

