-- ==== Sys2Proof/Laws/State.lean ====
section
/-! SUPPORT. One lemma per field of State and named update: what the update makes of the field. -/

namespace Sys2Proof.Machine

variable (s : State)

/-! ## respond -/

@[simp] theorem State.respond_cfg (r : Response) : (s.respond r).cfg = s.cfg := rfl
@[simp] theorem State.respond_lifecycle (r : Response) : (s.respond r).lifecycle = s.lifecycle := rfl
@[simp] theorem State.respond_linkMode (r : Response) : (s.respond r).linkMode = s.linkMode := rfl
@[simp] theorem State.respond_unrecoverable (r : Response) : (s.respond r).unrecoverable = s.unrecoverable := rfl
@[simp] theorem State.respond_fatalCause (r : Response) : (s.respond r).fatalCause = s.fatalCause := rfl
@[simp] theorem State.respond_paused (r : Response) : (s.respond r).paused = s.paused := rfl
@[simp] theorem State.respond_escPending (r : Response) : (s.respond r).escPending = s.escPending := rfl
@[simp] theorem State.respond_allOnesRun (r : Response) : (s.respond r).allOnesRun = s.allOnesRun := rfl
@[simp] theorem State.respond_rxState (r : Response) : (s.respond r).rxState = s.rxState := rfl
@[simp] theorem State.respond_scratch (r : Response) : (s.respond r).scratch = s.scratch := rfl
@[simp] theorem State.respond_scratchLen (r : Response) : (s.respond r).scratchLen = s.scratchLen := rfl
@[simp] theorem State.respond_asyncSubtype (r : Response) : (s.respond r).asyncSubtype = s.asyncSubtype := rfl
@[simp] theorem State.respond_asyncLen (r : Response) : (s.respond r).asyncLen = s.asyncLen := rfl
@[simp] theorem State.respond_asyncBuf (r : Response) : (s.respond r).asyncBuf = s.asyncBuf := rfl
@[simp] theorem State.respond_asyncCount (r : Response) : (s.respond r).asyncCount = s.asyncCount := rfl
@[simp] theorem State.respond_yCid (r : Response) : (s.respond r).yCid = s.yCid := rfl
@[simp] theorem State.respond_yIp (r : Response) : (s.respond r).yIp = s.yIp := rfl
@[simp] theorem State.respond_yPort (r : Response) : (s.respond r).yPort = s.yPort := rfl
@[simp] theorem State.respond_head (r : Response) : (s.respond r).head = s.head := rfl
@[simp] theorem State.respond_dataResp (r : Response) : (s.respond r).dataResp = s.dataResp := rfl
@[simp] theorem State.respond_dataWait (r : Response) : (s.respond r).dataWait = s.dataWait := rfl
@[simp] theorem State.respond_ring (r : Response) : (s.respond r).ring = s.ring := rfl
@[simp] theorem State.respond_headIdx (r : Response) : (s.respond r).headIdx = s.headIdx := rfl
@[simp] theorem State.respond_tailIdx (r : Response) : (s.respond r).tailIdx = s.tailIdx := rfl
@[simp] theorem State.respond_tail (r : Response) : (s.respond r).tail = s.tail := rfl
@[simp] theorem State.respond_conn (r : Response) : (s.respond r).conn = s.conn := rfl
@[simp] theorem State.respond_associated (r : Response) : (s.respond r).associated = s.associated := rfl
@[simp] theorem State.respond_assocPending (r : Response) : (s.respond r).assocPending = s.assocPending := rfl
@[simp] theorem State.respond_ncmPending (r : Response) : (s.respond r).ncmPending = s.ncmPending := rfl
@[simp] theorem State.respond_ncmValid (r : Response) : (s.respond r).ncmValid = s.ncmValid := rfl
@[simp] theorem State.respond_ncmCid (r : Response) : (s.respond r).ncmCid = s.ncmCid := rfl
@[simp] theorem State.respond_line (r : Response) : (s.respond r).line = s.line := rfl
@[simp] theorem State.respond_activity (r : Response) : (s.respond r).activity = s.activity := rfl
@[simp] theorem State.respond_port (r : Response) : (s.respond r).port = s.port := rfl
@[simp] theorem State.respond_env (r : Response) : (s.respond r).env = s.env := rfl
@[simp] theorem State.respond_result (r : Response) : (s.respond r).result = some r := rfl
@[simp] theorem State.respond_trace (r : Response) : (s.respond r).trace = s.trace := rfl
@[simp] theorem State.respond_log (r : Response) : (s.respond r).log = s.log := rfl

/-! ## emit -/

@[simp] theorem State.emit_cfg (e : LogEvent) : (s.emit e).cfg = s.cfg := rfl
@[simp] theorem State.emit_lifecycle (e : LogEvent) : (s.emit e).lifecycle = s.lifecycle := rfl
@[simp] theorem State.emit_linkMode (e : LogEvent) : (s.emit e).linkMode = s.linkMode := rfl
@[simp] theorem State.emit_unrecoverable (e : LogEvent) : (s.emit e).unrecoverable = s.unrecoverable := rfl
@[simp] theorem State.emit_fatalCause (e : LogEvent) : (s.emit e).fatalCause = s.fatalCause := rfl
@[simp] theorem State.emit_paused (e : LogEvent) : (s.emit e).paused = s.paused := rfl
@[simp] theorem State.emit_escPending (e : LogEvent) : (s.emit e).escPending = s.escPending := rfl
@[simp] theorem State.emit_allOnesRun (e : LogEvent) : (s.emit e).allOnesRun = s.allOnesRun := rfl
@[simp] theorem State.emit_rxState (e : LogEvent) : (s.emit e).rxState = s.rxState := rfl
@[simp] theorem State.emit_scratch (e : LogEvent) : (s.emit e).scratch = s.scratch := rfl
@[simp] theorem State.emit_scratchLen (e : LogEvent) : (s.emit e).scratchLen = s.scratchLen := rfl
@[simp] theorem State.emit_asyncSubtype (e : LogEvent) : (s.emit e).asyncSubtype = s.asyncSubtype := rfl
@[simp] theorem State.emit_asyncLen (e : LogEvent) : (s.emit e).asyncLen = s.asyncLen := rfl
@[simp] theorem State.emit_asyncBuf (e : LogEvent) : (s.emit e).asyncBuf = s.asyncBuf := rfl
@[simp] theorem State.emit_asyncCount (e : LogEvent) : (s.emit e).asyncCount = s.asyncCount := rfl
@[simp] theorem State.emit_yCid (e : LogEvent) : (s.emit e).yCid = s.yCid := rfl
@[simp] theorem State.emit_yIp (e : LogEvent) : (s.emit e).yIp = s.yIp := rfl
@[simp] theorem State.emit_yPort (e : LogEvent) : (s.emit e).yPort = s.yPort := rfl
@[simp] theorem State.emit_head (e : LogEvent) : (s.emit e).head = s.head := rfl
@[simp] theorem State.emit_dataResp (e : LogEvent) : (s.emit e).dataResp = s.dataResp := rfl
@[simp] theorem State.emit_dataWait (e : LogEvent) : (s.emit e).dataWait = s.dataWait := rfl
@[simp] theorem State.emit_ring (e : LogEvent) : (s.emit e).ring = s.ring := rfl
@[simp] theorem State.emit_headIdx (e : LogEvent) : (s.emit e).headIdx = s.headIdx := rfl
@[simp] theorem State.emit_tailIdx (e : LogEvent) : (s.emit e).tailIdx = s.tailIdx := rfl
@[simp] theorem State.emit_tail (e : LogEvent) : (s.emit e).tail = s.tail := rfl
@[simp] theorem State.emit_conn (e : LogEvent) : (s.emit e).conn = s.conn := rfl
@[simp] theorem State.emit_associated (e : LogEvent) : (s.emit e).associated = s.associated := rfl
@[simp] theorem State.emit_assocPending (e : LogEvent) : (s.emit e).assocPending = s.assocPending := rfl
@[simp] theorem State.emit_ncmPending (e : LogEvent) : (s.emit e).ncmPending = s.ncmPending := rfl
@[simp] theorem State.emit_ncmValid (e : LogEvent) : (s.emit e).ncmValid = s.ncmValid := rfl
@[simp] theorem State.emit_ncmCid (e : LogEvent) : (s.emit e).ncmCid = s.ncmCid := rfl
@[simp] theorem State.emit_line (e : LogEvent) : (s.emit e).line = s.line := rfl
@[simp] theorem State.emit_activity (e : LogEvent) : (s.emit e).activity = s.activity := rfl
@[simp] theorem State.emit_port (e : LogEvent) : (s.emit e).port = s.port := rfl
@[simp] theorem State.emit_env (e : LogEvent) : (s.emit e).env = s.env := rfl
@[simp] theorem State.emit_result (e : LogEvent) : (s.emit e).result = s.result := rfl
@[simp] theorem State.emit_trace (e : LogEvent) : (s.emit e).trace = s.trace := rfl
@[simp] theorem State.emit_log (e : LogEvent) : (s.emit e).log = e :: s.log := rfl

/-! ## note -/

@[simp] theorem State.note_cfg (e : LinkEvent) : (s.note e).cfg = s.cfg := rfl
@[simp] theorem State.note_lifecycle (e : LinkEvent) : (s.note e).lifecycle = s.lifecycle := rfl
@[simp] theorem State.note_linkMode (e : LinkEvent) : (s.note e).linkMode = s.linkMode := rfl
@[simp] theorem State.note_unrecoverable (e : LinkEvent) : (s.note e).unrecoverable = s.unrecoverable := rfl
@[simp] theorem State.note_fatalCause (e : LinkEvent) : (s.note e).fatalCause = s.fatalCause := rfl
@[simp] theorem State.note_paused (e : LinkEvent) : (s.note e).paused = s.paused := rfl
@[simp] theorem State.note_escPending (e : LinkEvent) : (s.note e).escPending = s.escPending := rfl
@[simp] theorem State.note_allOnesRun (e : LinkEvent) : (s.note e).allOnesRun = s.allOnesRun := rfl
@[simp] theorem State.note_rxState (e : LinkEvent) : (s.note e).rxState = s.rxState := rfl
@[simp] theorem State.note_scratch (e : LinkEvent) : (s.note e).scratch = s.scratch := rfl
@[simp] theorem State.note_scratchLen (e : LinkEvent) : (s.note e).scratchLen = s.scratchLen := rfl
@[simp] theorem State.note_asyncSubtype (e : LinkEvent) : (s.note e).asyncSubtype = s.asyncSubtype := rfl
@[simp] theorem State.note_asyncLen (e : LinkEvent) : (s.note e).asyncLen = s.asyncLen := rfl
@[simp] theorem State.note_asyncBuf (e : LinkEvent) : (s.note e).asyncBuf = s.asyncBuf := rfl
@[simp] theorem State.note_asyncCount (e : LinkEvent) : (s.note e).asyncCount = s.asyncCount := rfl
@[simp] theorem State.note_yCid (e : LinkEvent) : (s.note e).yCid = s.yCid := rfl
@[simp] theorem State.note_yIp (e : LinkEvent) : (s.note e).yIp = s.yIp := rfl
@[simp] theorem State.note_yPort (e : LinkEvent) : (s.note e).yPort = s.yPort := rfl
@[simp] theorem State.note_head (e : LinkEvent) : (s.note e).head = s.head := rfl
@[simp] theorem State.note_dataResp (e : LinkEvent) : (s.note e).dataResp = s.dataResp := rfl
@[simp] theorem State.note_dataWait (e : LinkEvent) : (s.note e).dataWait = s.dataWait := rfl
@[simp] theorem State.note_ring (e : LinkEvent) : (s.note e).ring = s.ring := rfl
@[simp] theorem State.note_headIdx (e : LinkEvent) : (s.note e).headIdx = s.headIdx := rfl
@[simp] theorem State.note_tailIdx (e : LinkEvent) : (s.note e).tailIdx = s.tailIdx := rfl
@[simp] theorem State.note_tail (e : LinkEvent) : (s.note e).tail = s.tail := rfl
@[simp] theorem State.note_conn (e : LinkEvent) : (s.note e).conn = s.conn := rfl
@[simp] theorem State.note_associated (e : LinkEvent) : (s.note e).associated = s.associated := rfl
@[simp] theorem State.note_assocPending (e : LinkEvent) : (s.note e).assocPending = s.assocPending := rfl
@[simp] theorem State.note_ncmPending (e : LinkEvent) : (s.note e).ncmPending = s.ncmPending := rfl
@[simp] theorem State.note_ncmValid (e : LinkEvent) : (s.note e).ncmValid = s.ncmValid := rfl
@[simp] theorem State.note_ncmCid (e : LinkEvent) : (s.note e).ncmCid = s.ncmCid := rfl
@[simp] theorem State.note_line (e : LinkEvent) : (s.note e).line = s.line := rfl
@[simp] theorem State.note_activity (e : LinkEvent) : (s.note e).activity = s.activity := rfl
@[simp] theorem State.note_port (e : LinkEvent) : (s.note e).port = s.port := rfl
@[simp] theorem State.note_env (e : LinkEvent) : (s.note e).env = s.env := rfl
@[simp] theorem State.note_result (e : LinkEvent) : (s.note e).result = s.result := rfl
@[simp] theorem State.note_trace (e : LinkEvent) : (s.note e).trace = e :: s.trace := rfl
@[simp] theorem State.note_log (e : LinkEvent) : (s.note e).log = s.log := rfl

/-! ## beginActivity -/

@[simp] theorem State.beginActivity_cfg (a : Activity) : (s.beginActivity a).cfg = s.cfg := rfl
@[simp] theorem State.beginActivity_lifecycle (a : Activity) : (s.beginActivity a).lifecycle = s.lifecycle := rfl
@[simp] theorem State.beginActivity_linkMode (a : Activity) : (s.beginActivity a).linkMode = s.linkMode := rfl
@[simp] theorem State.beginActivity_unrecoverable (a : Activity) :
    (s.beginActivity a).unrecoverable = s.unrecoverable := rfl
@[simp] theorem State.beginActivity_fatalCause (a : Activity) : (s.beginActivity a).fatalCause = s.fatalCause := rfl
@[simp] theorem State.beginActivity_paused (a : Activity) : (s.beginActivity a).paused = s.paused := rfl
@[simp] theorem State.beginActivity_escPending (a : Activity) : (s.beginActivity a).escPending = s.escPending := rfl
@[simp] theorem State.beginActivity_allOnesRun (a : Activity) : (s.beginActivity a).allOnesRun = s.allOnesRun := rfl
@[simp] theorem State.beginActivity_rxState (a : Activity) : (s.beginActivity a).rxState = s.rxState := rfl
@[simp] theorem State.beginActivity_scratch (a : Activity) : (s.beginActivity a).scratch = s.scratch := rfl
@[simp] theorem State.beginActivity_scratchLen (a : Activity) : (s.beginActivity a).scratchLen = s.scratchLen := rfl
@[simp] theorem State.beginActivity_asyncSubtype (a : Activity) :
    (s.beginActivity a).asyncSubtype = s.asyncSubtype := rfl
@[simp] theorem State.beginActivity_asyncLen (a : Activity) : (s.beginActivity a).asyncLen = s.asyncLen := rfl
@[simp] theorem State.beginActivity_asyncBuf (a : Activity) : (s.beginActivity a).asyncBuf = s.asyncBuf := rfl
@[simp] theorem State.beginActivity_asyncCount (a : Activity) : (s.beginActivity a).asyncCount = s.asyncCount := rfl
@[simp] theorem State.beginActivity_yCid (a : Activity) : (s.beginActivity a).yCid = s.yCid := rfl
@[simp] theorem State.beginActivity_yIp (a : Activity) : (s.beginActivity a).yIp = s.yIp := rfl
@[simp] theorem State.beginActivity_yPort (a : Activity) : (s.beginActivity a).yPort = s.yPort := rfl
@[simp] theorem State.beginActivity_head (a : Activity) : (s.beginActivity a).head = s.head := rfl
@[simp] theorem State.beginActivity_dataResp (a : Activity) : (s.beginActivity a).dataResp = s.dataResp := rfl
@[simp] theorem State.beginActivity_dataWait (a : Activity) : (s.beginActivity a).dataWait = s.dataWait := rfl
@[simp] theorem State.beginActivity_ring (a : Activity) : (s.beginActivity a).ring = s.ring := rfl
@[simp] theorem State.beginActivity_headIdx (a : Activity) : (s.beginActivity a).headIdx = s.headIdx := rfl
@[simp] theorem State.beginActivity_tailIdx (a : Activity) : (s.beginActivity a).tailIdx = s.tailIdx := rfl
@[simp] theorem State.beginActivity_tail (a : Activity) : (s.beginActivity a).tail = s.tail := rfl
@[simp] theorem State.beginActivity_conn (a : Activity) : (s.beginActivity a).conn = s.conn := rfl
@[simp] theorem State.beginActivity_associated (a : Activity) : (s.beginActivity a).associated = s.associated := rfl
@[simp] theorem State.beginActivity_assocPending (a : Activity) :
    (s.beginActivity a).assocPending = s.assocPending := rfl
@[simp] theorem State.beginActivity_ncmPending (a : Activity) : (s.beginActivity a).ncmPending = s.ncmPending := rfl
@[simp] theorem State.beginActivity_ncmValid (a : Activity) : (s.beginActivity a).ncmValid = s.ncmValid := rfl
@[simp] theorem State.beginActivity_ncmCid (a : Activity) : (s.beginActivity a).ncmCid = s.ncmCid := rfl
@[simp] theorem State.beginActivity_line (a : Activity) : (s.beginActivity a).line = s.line := rfl
@[simp] theorem State.beginActivity_activity (a : Activity) : (s.beginActivity a).activity = some a := rfl
@[simp] theorem State.beginActivity_port (a : Activity) : (s.beginActivity a).port = s.port := rfl
@[simp] theorem State.beginActivity_env (a : Activity) : (s.beginActivity a).env = s.env := rfl
@[simp] theorem State.beginActivity_result (a : Activity) : (s.beginActivity a).result = none := rfl
@[simp] theorem State.beginActivity_trace (a : Activity) : (s.beginActivity a).trace = s.trace := rfl
@[simp] theorem State.beginActivity_log (a : Activity) : (s.beginActivity a).log = s.log := rfl

/-! ## finish -/

@[simp] theorem State.finish_cfg (r : Response) : (s.finish r).cfg = s.cfg := rfl
@[simp] theorem State.finish_lifecycle (r : Response) : (s.finish r).lifecycle = s.lifecycle := rfl
@[simp] theorem State.finish_linkMode (r : Response) : (s.finish r).linkMode = s.linkMode := rfl
@[simp] theorem State.finish_unrecoverable (r : Response) : (s.finish r).unrecoverable = s.unrecoverable := rfl
@[simp] theorem State.finish_fatalCause (r : Response) : (s.finish r).fatalCause = s.fatalCause := rfl
@[simp] theorem State.finish_paused (r : Response) : (s.finish r).paused = s.paused := rfl
@[simp] theorem State.finish_escPending (r : Response) : (s.finish r).escPending = s.escPending := rfl
@[simp] theorem State.finish_allOnesRun (r : Response) : (s.finish r).allOnesRun = s.allOnesRun := rfl
@[simp] theorem State.finish_rxState (r : Response) : (s.finish r).rxState = s.rxState := rfl
@[simp] theorem State.finish_scratch (r : Response) : (s.finish r).scratch = s.scratch := rfl
@[simp] theorem State.finish_scratchLen (r : Response) : (s.finish r).scratchLen = s.scratchLen := rfl
@[simp] theorem State.finish_asyncSubtype (r : Response) : (s.finish r).asyncSubtype = s.asyncSubtype := rfl
@[simp] theorem State.finish_asyncLen (r : Response) : (s.finish r).asyncLen = s.asyncLen := rfl
@[simp] theorem State.finish_asyncBuf (r : Response) : (s.finish r).asyncBuf = s.asyncBuf := rfl
@[simp] theorem State.finish_asyncCount (r : Response) : (s.finish r).asyncCount = s.asyncCount := rfl
@[simp] theorem State.finish_yCid (r : Response) : (s.finish r).yCid = s.yCid := rfl
@[simp] theorem State.finish_yIp (r : Response) : (s.finish r).yIp = s.yIp := rfl
@[simp] theorem State.finish_yPort (r : Response) : (s.finish r).yPort = s.yPort := rfl
@[simp] theorem State.finish_head (r : Response) : (s.finish r).head = s.head := rfl
@[simp] theorem State.finish_dataResp (r : Response) : (s.finish r).dataResp = s.dataResp := rfl
@[simp] theorem State.finish_dataWait (r : Response) : (s.finish r).dataWait = s.dataWait := rfl
@[simp] theorem State.finish_ring (r : Response) : (s.finish r).ring = s.ring := rfl
@[simp] theorem State.finish_headIdx (r : Response) : (s.finish r).headIdx = s.headIdx := rfl
@[simp] theorem State.finish_tailIdx (r : Response) : (s.finish r).tailIdx = s.tailIdx := rfl
@[simp] theorem State.finish_tail (r : Response) : (s.finish r).tail = s.tail := rfl
@[simp] theorem State.finish_conn (r : Response) : (s.finish r).conn = s.conn := rfl
@[simp] theorem State.finish_associated (r : Response) : (s.finish r).associated = s.associated := rfl
@[simp] theorem State.finish_assocPending (r : Response) : (s.finish r).assocPending = s.assocPending := rfl
@[simp] theorem State.finish_ncmPending (r : Response) : (s.finish r).ncmPending = s.ncmPending := rfl
@[simp] theorem State.finish_ncmValid (r : Response) : (s.finish r).ncmValid = s.ncmValid := rfl
@[simp] theorem State.finish_ncmCid (r : Response) : (s.finish r).ncmCid = s.ncmCid := rfl
@[simp] theorem State.finish_line (r : Response) : (s.finish r).line = s.line := rfl
@[simp] theorem State.finish_activity (r : Response) : (s.finish r).activity = none := rfl
@[simp] theorem State.finish_port (r : Response) : (s.finish r).port = s.port := rfl
@[simp] theorem State.finish_env (r : Response) : (s.finish r).env = s.env := rfl
@[simp] theorem State.finish_result (r : Response) : (s.finish r).result = some r := rfl
@[simp] theorem State.finish_trace (r : Response) : (s.finish r).trace = s.trace := rfl
@[simp] theorem State.finish_log (r : Response) : (s.finish r).log = s.log := rfl

/-! ## setConn -/

@[simp] theorem State.setConn_cfg (c : Cid) (e : Conn) : (s.setConn c e).cfg = s.cfg := rfl
@[simp] theorem State.setConn_lifecycle (c : Cid) (e : Conn) : (s.setConn c e).lifecycle = s.lifecycle := rfl
@[simp] theorem State.setConn_linkMode (c : Cid) (e : Conn) : (s.setConn c e).linkMode = s.linkMode := rfl
@[simp] theorem State.setConn_unrecoverable (c : Cid) (e : Conn) :
    (s.setConn c e).unrecoverable = s.unrecoverable := rfl
@[simp] theorem State.setConn_fatalCause (c : Cid) (e : Conn) : (s.setConn c e).fatalCause = s.fatalCause := rfl
@[simp] theorem State.setConn_paused (c : Cid) (e : Conn) : (s.setConn c e).paused = s.paused := rfl
@[simp] theorem State.setConn_escPending (c : Cid) (e : Conn) : (s.setConn c e).escPending = s.escPending := rfl
@[simp] theorem State.setConn_allOnesRun (c : Cid) (e : Conn) : (s.setConn c e).allOnesRun = s.allOnesRun := rfl
@[simp] theorem State.setConn_rxState (c : Cid) (e : Conn) : (s.setConn c e).rxState = s.rxState := rfl
@[simp] theorem State.setConn_scratch (c : Cid) (e : Conn) : (s.setConn c e).scratch = s.scratch := rfl
@[simp] theorem State.setConn_scratchLen (c : Cid) (e : Conn) : (s.setConn c e).scratchLen = s.scratchLen := rfl
@[simp] theorem State.setConn_asyncSubtype (c : Cid) (e : Conn) : (s.setConn c e).asyncSubtype = s.asyncSubtype := rfl
@[simp] theorem State.setConn_asyncLen (c : Cid) (e : Conn) : (s.setConn c e).asyncLen = s.asyncLen := rfl
@[simp] theorem State.setConn_asyncBuf (c : Cid) (e : Conn) : (s.setConn c e).asyncBuf = s.asyncBuf := rfl
@[simp] theorem State.setConn_asyncCount (c : Cid) (e : Conn) : (s.setConn c e).asyncCount = s.asyncCount := rfl
@[simp] theorem State.setConn_yCid (c : Cid) (e : Conn) : (s.setConn c e).yCid = s.yCid := rfl
@[simp] theorem State.setConn_yIp (c : Cid) (e : Conn) : (s.setConn c e).yIp = s.yIp := rfl
@[simp] theorem State.setConn_yPort (c : Cid) (e : Conn) : (s.setConn c e).yPort = s.yPort := rfl
@[simp] theorem State.setConn_head (c : Cid) (e : Conn) : (s.setConn c e).head = s.head := rfl
@[simp] theorem State.setConn_dataResp (c : Cid) (e : Conn) : (s.setConn c e).dataResp = s.dataResp := rfl
@[simp] theorem State.setConn_dataWait (c : Cid) (e : Conn) : (s.setConn c e).dataWait = s.dataWait := rfl
@[simp] theorem State.setConn_ring (c : Cid) (e : Conn) : (s.setConn c e).ring = s.ring := rfl
@[simp] theorem State.setConn_headIdx (c : Cid) (e : Conn) : (s.setConn c e).headIdx = s.headIdx := rfl
@[simp] theorem State.setConn_tailIdx (c : Cid) (e : Conn) : (s.setConn c e).tailIdx = s.tailIdx := rfl
@[simp] theorem State.setConn_tail (c : Cid) (e : Conn) : (s.setConn c e).tail = s.tail := rfl
@[simp] theorem State.setConn_conn (c : Cid) (e : Conn) : (s.setConn c e).conn = s.conn.set c e := rfl
@[simp] theorem State.setConn_associated (c : Cid) (e : Conn) : (s.setConn c e).associated = s.associated := rfl
@[simp] theorem State.setConn_assocPending (c : Cid) (e : Conn) : (s.setConn c e).assocPending = s.assocPending := rfl
@[simp] theorem State.setConn_ncmPending (c : Cid) (e : Conn) : (s.setConn c e).ncmPending = s.ncmPending := rfl
@[simp] theorem State.setConn_ncmValid (c : Cid) (e : Conn) : (s.setConn c e).ncmValid = s.ncmValid := rfl
@[simp] theorem State.setConn_ncmCid (c : Cid) (e : Conn) : (s.setConn c e).ncmCid = s.ncmCid := rfl
@[simp] theorem State.setConn_line (c : Cid) (e : Conn) : (s.setConn c e).line = s.line := rfl
@[simp] theorem State.setConn_activity (c : Cid) (e : Conn) : (s.setConn c e).activity = s.activity := rfl
@[simp] theorem State.setConn_port (c : Cid) (e : Conn) : (s.setConn c e).port = s.port := rfl
@[simp] theorem State.setConn_env (c : Cid) (e : Conn) : (s.setConn c e).env = s.env := rfl
@[simp] theorem State.setConn_result (c : Cid) (e : Conn) : (s.setConn c e).result = s.result := rfl
@[simp] theorem State.setConn_trace (c : Cid) (e : Conn) : (s.setConn c e).trace = s.trace := rfl
@[simp] theorem State.setConn_log (c : Cid) (e : Conn) : (s.setConn c e).log = s.log := rfl

/-! ## clearAllOnes -/

@[simp] theorem State.clearAllOnes_cfg : (s.clearAllOnes).cfg = s.cfg := rfl
@[simp] theorem State.clearAllOnes_lifecycle : (s.clearAllOnes).lifecycle = s.lifecycle := rfl
@[simp] theorem State.clearAllOnes_linkMode : (s.clearAllOnes).linkMode = s.linkMode := rfl
@[simp] theorem State.clearAllOnes_unrecoverable : (s.clearAllOnes).unrecoverable = s.unrecoverable := rfl
@[simp] theorem State.clearAllOnes_fatalCause : (s.clearAllOnes).fatalCause = s.fatalCause := rfl
@[simp] theorem State.clearAllOnes_paused : (s.clearAllOnes).paused = s.paused := rfl
@[simp] theorem State.clearAllOnes_escPending : (s.clearAllOnes).escPending = s.escPending := rfl
@[simp] theorem State.clearAllOnes_allOnesRun : (s.clearAllOnes).allOnesRun = 0 := rfl
@[simp] theorem State.clearAllOnes_rxState : (s.clearAllOnes).rxState = s.rxState := rfl
@[simp] theorem State.clearAllOnes_scratch : (s.clearAllOnes).scratch = s.scratch := rfl
@[simp] theorem State.clearAllOnes_scratchLen : (s.clearAllOnes).scratchLen = s.scratchLen := rfl
@[simp] theorem State.clearAllOnes_asyncSubtype : (s.clearAllOnes).asyncSubtype = s.asyncSubtype := rfl
@[simp] theorem State.clearAllOnes_asyncLen : (s.clearAllOnes).asyncLen = s.asyncLen := rfl
@[simp] theorem State.clearAllOnes_asyncBuf : (s.clearAllOnes).asyncBuf = s.asyncBuf := rfl
@[simp] theorem State.clearAllOnes_asyncCount : (s.clearAllOnes).asyncCount = s.asyncCount := rfl
@[simp] theorem State.clearAllOnes_yCid : (s.clearAllOnes).yCid = s.yCid := rfl
@[simp] theorem State.clearAllOnes_yIp : (s.clearAllOnes).yIp = s.yIp := rfl
@[simp] theorem State.clearAllOnes_yPort : (s.clearAllOnes).yPort = s.yPort := rfl
@[simp] theorem State.clearAllOnes_head : (s.clearAllOnes).head = s.head := rfl
@[simp] theorem State.clearAllOnes_dataResp : (s.clearAllOnes).dataResp = s.dataResp := rfl
@[simp] theorem State.clearAllOnes_dataWait : (s.clearAllOnes).dataWait = s.dataWait := rfl
@[simp] theorem State.clearAllOnes_ring : (s.clearAllOnes).ring = s.ring := rfl
@[simp] theorem State.clearAllOnes_headIdx : (s.clearAllOnes).headIdx = s.headIdx := rfl
@[simp] theorem State.clearAllOnes_tailIdx : (s.clearAllOnes).tailIdx = s.tailIdx := rfl
@[simp] theorem State.clearAllOnes_tail : (s.clearAllOnes).tail = s.tail := rfl
@[simp] theorem State.clearAllOnes_conn : (s.clearAllOnes).conn = s.conn := rfl
@[simp] theorem State.clearAllOnes_associated : (s.clearAllOnes).associated = s.associated := rfl
@[simp] theorem State.clearAllOnes_assocPending : (s.clearAllOnes).assocPending = s.assocPending := rfl
@[simp] theorem State.clearAllOnes_ncmPending : (s.clearAllOnes).ncmPending = s.ncmPending := rfl
@[simp] theorem State.clearAllOnes_ncmValid : (s.clearAllOnes).ncmValid = s.ncmValid := rfl
@[simp] theorem State.clearAllOnes_ncmCid : (s.clearAllOnes).ncmCid = s.ncmCid := rfl
@[simp] theorem State.clearAllOnes_line : (s.clearAllOnes).line = s.line := rfl
@[simp] theorem State.clearAllOnes_activity : (s.clearAllOnes).activity = s.activity := rfl
@[simp] theorem State.clearAllOnes_port : (s.clearAllOnes).port = s.port := rfl
@[simp] theorem State.clearAllOnes_env : (s.clearAllOnes).env = s.env := rfl
@[simp] theorem State.clearAllOnes_result : (s.clearAllOnes).result = s.result := rfl
@[simp] theorem State.clearAllOnes_trace : (s.clearAllOnes).trace = s.trace := rfl
@[simp] theorem State.clearAllOnes_log : (s.clearAllOnes).log = s.log := rfl

/-! ## assocEdge -/

@[simp] theorem State.assocEdge_cfg (e : AssocEvent) : (s.assocEdge e).cfg = s.cfg := rfl
@[simp] theorem State.assocEdge_lifecycle (e : AssocEvent) : (s.assocEdge e).lifecycle = s.lifecycle := rfl
@[simp] theorem State.assocEdge_linkMode (e : AssocEvent) : (s.assocEdge e).linkMode = s.linkMode := rfl
@[simp] theorem State.assocEdge_unrecoverable (e : AssocEvent) : (s.assocEdge e).unrecoverable = s.unrecoverable := rfl
@[simp] theorem State.assocEdge_fatalCause (e : AssocEvent) : (s.assocEdge e).fatalCause = s.fatalCause := rfl
@[simp] theorem State.assocEdge_paused (e : AssocEvent) : (s.assocEdge e).paused = s.paused := rfl
@[simp] theorem State.assocEdge_escPending (e : AssocEvent) : (s.assocEdge e).escPending = s.escPending := rfl
@[simp] theorem State.assocEdge_allOnesRun (e : AssocEvent) : (s.assocEdge e).allOnesRun = s.allOnesRun := rfl
@[simp] theorem State.assocEdge_rxState (e : AssocEvent) : (s.assocEdge e).rxState = s.rxState := rfl
@[simp] theorem State.assocEdge_scratch (e : AssocEvent) : (s.assocEdge e).scratch = s.scratch := rfl
@[simp] theorem State.assocEdge_scratchLen (e : AssocEvent) : (s.assocEdge e).scratchLen = s.scratchLen := rfl
@[simp] theorem State.assocEdge_asyncSubtype (e : AssocEvent) : (s.assocEdge e).asyncSubtype = s.asyncSubtype := rfl
@[simp] theorem State.assocEdge_asyncLen (e : AssocEvent) : (s.assocEdge e).asyncLen = s.asyncLen := rfl
@[simp] theorem State.assocEdge_asyncBuf (e : AssocEvent) : (s.assocEdge e).asyncBuf = s.asyncBuf := rfl
@[simp] theorem State.assocEdge_asyncCount (e : AssocEvent) : (s.assocEdge e).asyncCount = s.asyncCount := rfl
@[simp] theorem State.assocEdge_yCid (e : AssocEvent) : (s.assocEdge e).yCid = s.yCid := rfl
@[simp] theorem State.assocEdge_yIp (e : AssocEvent) : (s.assocEdge e).yIp = s.yIp := rfl
@[simp] theorem State.assocEdge_yPort (e : AssocEvent) : (s.assocEdge e).yPort = s.yPort := rfl
@[simp] theorem State.assocEdge_head (e : AssocEvent) : (s.assocEdge e).head = s.head := rfl
@[simp] theorem State.assocEdge_dataResp (e : AssocEvent) : (s.assocEdge e).dataResp = s.dataResp := rfl
@[simp] theorem State.assocEdge_dataWait (e : AssocEvent) : (s.assocEdge e).dataWait = s.dataWait := rfl
@[simp] theorem State.assocEdge_ring (e : AssocEvent) : (s.assocEdge e).ring = s.ring := rfl
@[simp] theorem State.assocEdge_headIdx (e : AssocEvent) : (s.assocEdge e).headIdx = s.headIdx := rfl
@[simp] theorem State.assocEdge_tailIdx (e : AssocEvent) : (s.assocEdge e).tailIdx = s.tailIdx := rfl
@[simp] theorem State.assocEdge_tail (e : AssocEvent) : (s.assocEdge e).tail = s.tail := rfl
@[simp] theorem State.assocEdge_conn (e : AssocEvent) : (s.assocEdge e).conn = s.conn := rfl
@[simp] theorem State.assocEdge_associated (e : AssocEvent) : (s.assocEdge e).associated = s.associated := rfl
@[simp] theorem State.assocEdge_assocPending (e : AssocEvent) :
    (s.assocEdge e).assocPending = if s.assocPending ≠ .none ∧ s.assocPending ≠ e then .none else e := rfl
@[simp] theorem State.assocEdge_ncmPending (e : AssocEvent) : (s.assocEdge e).ncmPending = s.ncmPending := rfl
@[simp] theorem State.assocEdge_ncmValid (e : AssocEvent) : (s.assocEdge e).ncmValid = s.ncmValid := rfl
@[simp] theorem State.assocEdge_ncmCid (e : AssocEvent) : (s.assocEdge e).ncmCid = s.ncmCid := rfl
@[simp] theorem State.assocEdge_line (e : AssocEvent) : (s.assocEdge e).line = s.line := rfl
@[simp] theorem State.assocEdge_activity (e : AssocEvent) : (s.assocEdge e).activity = s.activity := rfl
@[simp] theorem State.assocEdge_port (e : AssocEvent) : (s.assocEdge e).port = s.port := rfl
@[simp] theorem State.assocEdge_env (e : AssocEvent) : (s.assocEdge e).env = s.env := rfl
@[simp] theorem State.assocEdge_result (e : AssocEvent) : (s.assocEdge e).result = s.result := rfl
@[simp] theorem State.assocEdge_trace (e : AssocEvent) : (s.assocEdge e).trace = s.trace := rfl
@[simp] theorem State.assocEdge_log (e : AssocEvent) : (s.assocEdge e).log = s.log := rfl

/-! ## ncmEdge -/

@[simp] theorem State.ncmEdge_cfg (e : NcmEvent) : (s.ncmEdge e).cfg = s.cfg := rfl
@[simp] theorem State.ncmEdge_lifecycle (e : NcmEvent) : (s.ncmEdge e).lifecycle = s.lifecycle := rfl
@[simp] theorem State.ncmEdge_linkMode (e : NcmEvent) : (s.ncmEdge e).linkMode = s.linkMode := rfl
@[simp] theorem State.ncmEdge_unrecoverable (e : NcmEvent) : (s.ncmEdge e).unrecoverable = s.unrecoverable := rfl
@[simp] theorem State.ncmEdge_fatalCause (e : NcmEvent) : (s.ncmEdge e).fatalCause = s.fatalCause := rfl
@[simp] theorem State.ncmEdge_paused (e : NcmEvent) : (s.ncmEdge e).paused = s.paused := rfl
@[simp] theorem State.ncmEdge_escPending (e : NcmEvent) : (s.ncmEdge e).escPending = s.escPending := rfl
@[simp] theorem State.ncmEdge_allOnesRun (e : NcmEvent) : (s.ncmEdge e).allOnesRun = s.allOnesRun := rfl
@[simp] theorem State.ncmEdge_rxState (e : NcmEvent) : (s.ncmEdge e).rxState = s.rxState := rfl
@[simp] theorem State.ncmEdge_scratch (e : NcmEvent) : (s.ncmEdge e).scratch = s.scratch := rfl
@[simp] theorem State.ncmEdge_scratchLen (e : NcmEvent) : (s.ncmEdge e).scratchLen = s.scratchLen := rfl
@[simp] theorem State.ncmEdge_asyncSubtype (e : NcmEvent) : (s.ncmEdge e).asyncSubtype = s.asyncSubtype := rfl
@[simp] theorem State.ncmEdge_asyncLen (e : NcmEvent) : (s.ncmEdge e).asyncLen = s.asyncLen := rfl
@[simp] theorem State.ncmEdge_asyncBuf (e : NcmEvent) : (s.ncmEdge e).asyncBuf = s.asyncBuf := rfl
@[simp] theorem State.ncmEdge_asyncCount (e : NcmEvent) : (s.ncmEdge e).asyncCount = s.asyncCount := rfl
@[simp] theorem State.ncmEdge_yCid (e : NcmEvent) : (s.ncmEdge e).yCid = s.yCid := rfl
@[simp] theorem State.ncmEdge_yIp (e : NcmEvent) : (s.ncmEdge e).yIp = s.yIp := rfl
@[simp] theorem State.ncmEdge_yPort (e : NcmEvent) : (s.ncmEdge e).yPort = s.yPort := rfl
@[simp] theorem State.ncmEdge_head (e : NcmEvent) : (s.ncmEdge e).head = s.head := rfl
@[simp] theorem State.ncmEdge_dataResp (e : NcmEvent) : (s.ncmEdge e).dataResp = s.dataResp := rfl
@[simp] theorem State.ncmEdge_dataWait (e : NcmEvent) : (s.ncmEdge e).dataWait = s.dataWait := rfl
@[simp] theorem State.ncmEdge_ring (e : NcmEvent) : (s.ncmEdge e).ring = s.ring := rfl
@[simp] theorem State.ncmEdge_headIdx (e : NcmEvent) : (s.ncmEdge e).headIdx = s.headIdx := rfl
@[simp] theorem State.ncmEdge_tailIdx (e : NcmEvent) : (s.ncmEdge e).tailIdx = s.tailIdx := rfl
@[simp] theorem State.ncmEdge_tail (e : NcmEvent) : (s.ncmEdge e).tail = s.tail := rfl
@[simp] theorem State.ncmEdge_conn (e : NcmEvent) : (s.ncmEdge e).conn = s.conn := rfl
@[simp] theorem State.ncmEdge_associated (e : NcmEvent) : (s.ncmEdge e).associated = s.associated := rfl
@[simp] theorem State.ncmEdge_assocPending (e : NcmEvent) : (s.ncmEdge e).assocPending = s.assocPending := rfl
@[simp] theorem State.ncmEdge_ncmPending (e : NcmEvent) :
    (s.ncmEdge e).ncmPending = if s.ncmPending ≠ .none ∧ s.ncmPending ≠ e then .none else e := rfl
@[simp] theorem State.ncmEdge_ncmValid (e : NcmEvent) : (s.ncmEdge e).ncmValid = s.ncmValid := rfl
@[simp] theorem State.ncmEdge_ncmCid (e : NcmEvent) : (s.ncmEdge e).ncmCid = s.ncmCid := rfl
@[simp] theorem State.ncmEdge_line (e : NcmEvent) : (s.ncmEdge e).line = s.line := rfl
@[simp] theorem State.ncmEdge_activity (e : NcmEvent) : (s.ncmEdge e).activity = s.activity := rfl
@[simp] theorem State.ncmEdge_port (e : NcmEvent) : (s.ncmEdge e).port = s.port := rfl
@[simp] theorem State.ncmEdge_env (e : NcmEvent) : (s.ncmEdge e).env = s.env := rfl
@[simp] theorem State.ncmEdge_result (e : NcmEvent) : (s.ncmEdge e).result = s.result := rfl
@[simp] theorem State.ncmEdge_trace (e : NcmEvent) : (s.ncmEdge e).trace = s.trace := rfl
@[simp] theorem State.ncmEdge_log (e : NcmEvent) : (s.ncmEdge e).log = s.log := rfl

/-! ## initRegisters -/

@[simp] theorem State.initRegisters_cfg : s.initRegisters.cfg = s.cfg := rfl
@[simp] theorem State.initRegisters_lifecycle : s.initRegisters.lifecycle = s.lifecycle := rfl
@[simp] theorem State.initRegisters_linkMode : s.initRegisters.linkMode = s.linkMode := rfl
@[simp] theorem State.initRegisters_unrecoverable : s.initRegisters.unrecoverable = false := rfl
@[simp] theorem State.initRegisters_fatalCause : s.initRegisters.fatalCause = .none := rfl
@[simp] theorem State.initRegisters_paused : s.initRegisters.paused = false := rfl
@[simp] theorem State.initRegisters_escPending : s.initRegisters.escPending = false := rfl
@[simp] theorem State.initRegisters_allOnesRun : s.initRegisters.allOnesRun = 0 := rfl
@[simp] theorem State.initRegisters_rxState : s.initRegisters.rxState = .idle := rfl
@[simp] theorem State.initRegisters_scratch : s.initRegisters.scratch = s.scratch := rfl
@[simp] theorem State.initRegisters_scratchLen : s.initRegisters.scratchLen = 0 := rfl
@[simp] theorem State.initRegisters_asyncSubtype : s.initRegisters.asyncSubtype = s.asyncSubtype := rfl
@[simp] theorem State.initRegisters_asyncLen : s.initRegisters.asyncLen = s.asyncLen := rfl
@[simp] theorem State.initRegisters_asyncBuf : s.initRegisters.asyncBuf = s.asyncBuf := rfl
@[simp] theorem State.initRegisters_asyncCount : s.initRegisters.asyncCount = 0 := rfl
@[simp] theorem State.initRegisters_yCid : s.initRegisters.yCid = s.yCid := rfl
@[simp] theorem State.initRegisters_yIp : s.initRegisters.yIp = s.yIp := rfl
@[simp] theorem State.initRegisters_yPort : s.initRegisters.yPort = s.yPort := rfl
@[simp] theorem State.initRegisters_head : s.initRegisters.head = FrameHeader.zero := rfl
@[simp] theorem State.initRegisters_dataResp : s.initRegisters.dataResp = .none := rfl
@[simp] theorem State.initRegisters_dataWait : s.initRegisters.dataWait = false := rfl
@[simp] theorem State.initRegisters_ring : s.initRegisters.ring = s.ring := rfl
@[simp] theorem State.initRegisters_headIdx : s.initRegisters.headIdx = 0 := rfl
@[simp] theorem State.initRegisters_tailIdx : s.initRegisters.tailIdx = 0 := rfl
@[simp] theorem State.initRegisters_tail : s.initRegisters.tail = FrameHeader.zero := rfl
@[simp] theorem State.initRegisters_conn : s.initRegisters.conn = Vector.replicate 16 Conn.zero := rfl
@[simp] theorem State.initRegisters_associated : s.initRegisters.associated = false := rfl
@[simp] theorem State.initRegisters_assocPending : s.initRegisters.assocPending = .none := rfl
@[simp] theorem State.initRegisters_ncmPending : s.initRegisters.ncmPending = .none := rfl
@[simp] theorem State.initRegisters_ncmValid : s.initRegisters.ncmValid = false := rfl
@[simp] theorem State.initRegisters_ncmCid : s.initRegisters.ncmCid = 0 := rfl
@[simp] theorem State.initRegisters_line : s.initRegisters.line = s.line := rfl
@[simp] theorem State.initRegisters_activity : s.initRegisters.activity = s.activity := rfl
@[simp] theorem State.initRegisters_port : s.initRegisters.port = s.port := rfl
@[simp] theorem State.initRegisters_env : s.initRegisters.env = s.env := rfl
@[simp] theorem State.initRegisters_result : s.initRegisters.result = s.result := rfl
@[simp] theorem State.initRegisters_trace : s.initRegisters.trace = s.trace := rfl
@[simp] theorem State.initRegisters_log : s.initRegisters.log = s.log := rfl

/-! ## The connection table -/

@[simp] theorem State.connAt_setConn (c k : Cid) (e : Conn) :
    (s.setConn c e).connAt k = if k = c then e else s.connAt k := by
  simp only [State.connAt, State.setConn_conn]
  rcases eq_or_ne k c with h | h
  · subst h; simp
  · have : c.val ≠ k.val := fun hv => h (Fin.ext hv.symm)
    simp [h, this]

@[simp] theorem State.connAt_respond (r : Response) (k : Cid) : (s.respond r).connAt k = s.connAt k := rfl
@[simp] theorem State.connAt_emit (e : LogEvent) (k : Cid) : (s.emit e).connAt k = s.connAt k := rfl
@[simp] theorem State.connAt_note (e : LinkEvent) (k : Cid) : (s.note e).connAt k = s.connAt k := rfl

end Sys2Proof.Machine
end

