-- ==== Sys2Proof/Laws/Inv.lean ====
section
/-! SUPPORT. The shared operations keep the invariant of the registers (Safety.lean), one lemma for each. -/

namespace Sys2Proof.Machine

variable {s : State}

/-! ## What the parameters give -/

theorem Config.ringCap_ge (cfg : Config) (h : cfg.valid = true) : 32 ≤ cfg.ringCap := by
  simp only [Config.valid, Config.ringOk, Bool.and_eq_true, decide_eq_true_eq] at h
  omega

theorem Config.maxRespLen_lt_internal (cfg : Config) (h : cfg.valid = true) :
    cfg.maxRespLen + 1 ≤ cfg.lineBufInternal := by
  simp only [Config.valid, Bool.and_eq_true, decide_eq_true_eq] at h
  omega

theorem Config.reserved_nodup (cfg : Config) (h : cfg.valid = true) : cfg.reserved.Nodup := by
  simp only [Config.valid, Config.busOk, Bool.and_eq_true, decide_eq_true_eq] at h
  exact h.1.1.2

theorem Config.table_code_le (cfg : Config) (h : cfg.valid = true) : ∀ r ∈ cfg.respTable, r.code ≤ maxCode := by
  simp only [Config.valid, Config.tableOk, Bool.and_eq_true, List.all_eq_true, decide_eq_true_eq] at h
  exact fun r hr => (h.1.2.2 r hr).1

theorem Config.awaits (cfg : Config) (h : cfg.valid = true) : cfg.awaitDataResponse = true := by
  simp only [Config.valid, Bool.and_eq_true] at h
  exact h.2

theorem Config.maxRespLen_ge (cfg : Config) : 2 ≤ cfg.maxRespLen := by
  have key : ∀ (l : List RespRow) (m : Nat), m ≤ l.foldl (fun m r => max m (codeDigits r.code + 2 * r.argc)) m := by
    intro l
    induction l with
    | nil => intro m; exact Nat.le_refl m
    | cons r l ih => intro m; exact Nat.le_trans (Nat.le_max_left _ _) (ih _)
  exact key cfg.respTable 2

theorem State.Inv.cap (h : s.Inv) : 32 ≤ s.cfg.ringCap := Config.ringCap_ge s.cfg h.config

/-- The counters, one by one. -/
theorem State.registersOk_iff : s.registersOk = true ↔ s.headIdx < s.cfg.ringCap ∧ s.tailIdx < s.cfg.ringCap
    ∧ s.allOnesRun ≤ allOnesLimit ∧ s.scratchLen ≤ scratchBound s.rxState
    ∧ (s.rxState = .async → s.asyncCount < s.asyncLen ∧ s.asyncLen ≤ asyncMax) := by
  simp only [State.registersOk, Bool.and_eq_true, decide_eq_true_eq, Bool.or_eq_true]
  constructor
  · rintro ⟨⟨⟨⟨h1, h2⟩, h3⟩, h4⟩, h5⟩
    exact ⟨h1, h2, h3, h4, fun ha => h5.resolve_left fun hn => hn ha⟩
  · rintro ⟨h1, h2, h3, h4, h5⟩
    refine ⟨⟨⟨⟨h1, h2⟩, h3⟩, h4⟩, ?_⟩
    by_cases ha : s.rxState = .async
    · exact .inr (h5 ha)
    · exact .inl ha

theorem State.Inv.head_lt (h : s.Inv) : s.headIdx < s.cfg.ringCap := (State.registersOk_iff.1 h.counters).1
theorem State.Inv.tail_lt (h : s.Inv) : s.tailIdx < s.cfg.ringCap := (State.registersOk_iff.1 h.counters).2.1

/-! ## Updates that no part of the invariant reads -/

theorem State.Inv.respond (h : s.Inv) (r : Response) : (s.respond r).Inv :=
  ⟨h.1, h.2, h.3, h.4, h.5, h.6, h.7, h.8, h.9, h.10, h.11, h.12, h.13, h.14, h.15, h.16, h.17, h.18, h.19, h.20⟩

theorem State.Inv.emit (h : s.Inv) (e : LogEvent) : (s.emit e).Inv :=
  ⟨h.1, h.2, h.3, h.4, h.5, h.6, h.7, h.8, h.9, h.10, h.11, h.12, h.13, h.14, h.15, h.16, h.17, h.18, h.19, h.20⟩

theorem State.Inv.note (h : s.Inv) (e : LinkEvent) : (s.note e).Inv :=
  ⟨h.1, h.2, h.3, h.4, h.5, h.6, h.7, h.8, h.9, h.10, h.11, h.12, h.13, h.14, h.15, h.16, h.17, h.18, h.19, h.20⟩

theorem State.Inv.env (h : s.Inv) (e : Env) : State.Inv { s with env := e } :=
  ⟨h.1, h.2, h.3, h.4, h.5, h.6, h.7, h.8, h.9, h.10, h.11, h.12, h.13, h.14, h.15, h.16, h.17, h.18, h.19, h.20⟩

theorem State.Inv.port (h : s.Inv) (p : List Request) : State.Inv { s with port := p } :=
  ⟨h.1, h.2, h.3, h.4, h.5, h.6, h.7, h.8, h.9, h.10, h.11, h.12, h.13, h.14, h.15, h.16, h.17, h.18, h.19, h.20⟩

theorem State.Inv.activity (h : s.Inv) (a : Option Activity) (r : Option Response) :
    State.Inv { s with activity := a, result := r } :=
  ⟨h.1, h.2, h.3, h.4, h.5, h.6, h.7, h.8, h.9, h.10, h.11, h.12, h.13, h.14, h.15, h.16, h.17, h.18, h.19, h.20⟩

theorem State.Inv.onlyActivity (h : s.Inv) (a : Option Activity) : State.Inv { s with activity := a } :=
  ⟨h.1, h.2, h.3, h.4, h.5, h.6, h.7, h.8, h.9, h.10, h.11, h.12, h.13, h.14, h.15, h.16, h.17, h.18, h.19, h.20⟩

theorem State.Inv.beginActivity (h : s.Inv) (a : Activity) : (s.beginActivity a).Inv := h.activity _ _

theorem State.Inv.finish (h : s.Inv) (r : Response) : (s.finish r).Inv := h.activity _ _

theorem State.Inv.dataResponse (h : s.Inv) (r : DataResp) (w : Bool) :
    State.Inv { s with dataResp := r, dataWait := w } :=
  ⟨h.1, h.2, h.3, h.4, h.5, h.6, h.7, h.8, h.9, h.10, h.11, h.12, h.13, h.14, h.15, h.16, h.17, h.18, h.19, h.20⟩

theorem State.Inv.udpFields (h : s.Inv) (c : Cid) (ip : IPv4) (p : Half) :
    State.Inv { s with yCid := c, yIp := ip, yPort := p } :=
  ⟨h.1, h.2, h.3, h.4, h.5, h.6, h.7, h.8, h.9, h.10, h.11, h.12, h.13, h.14, h.15, h.16, h.17, h.18, h.19, h.20⟩

theorem State.Inv.hostCode (h : s.Inv) (c : ResultCode) : (s.hostCode c).Inv := h.respond _
theorem State.Inv.hostOk (h : s.Inv) (o : List Byte) : (s.hostOk o).Inv := h.respond _

theorem State.Inv.gated (h : s.Inv) (f : State → State) (hf : s.lifecycle ≠ .stopped → s.unrecoverable = false →
    (f s).Inv) : (s.gated f).Inv := by
  unfold State.gated
  split
  · exact h.hostCode _
  · split
    · exact h.hostCode _
    · next h1 h2 => exact hf h1 (by simpa using h2)

theorem State.Inv.withOperand {α : Type} (h : s.Inv) (o : Option α) (f : α → State)
    (hf : ∀ v, o = some v → (f v).Inv) : (s.withOperand o f).Inv := by
  unfold State.withOperand
  split
  · next v => exact hf v rfl
  · exact h.hostCode _

theorem State.Inv.lifecycle (h : s.Inv) (l : Lifecycle) : State.Inv { s with lifecycle := l } :=
  ⟨h.1, h.2, h.3, h.4, h.5, h.6, h.7, h.8, h.9, h.10, h.11, h.12, h.13, h.14, h.15, h.16, h.17, h.18, h.19, h.20⟩

/-! ## The line state -/

/-- What the invariant says of a line state (43 R291). -/
structure LineState.Ok (cfg : Config) (l : LineState) : Prop where
  start : l.start ≤ l.buf.length
  room : l.buf.length ≤ l.cap
  cap : cfg.maxRespLen + 1 ≤ l.cap
  raw : l.mode ≠ .raw → l.start = 0
  callback : l.mode ≠ .callback → l.lines = []

theorem State.Inv.lineOk (h : s.Inv) : LineState.Ok s.cfg s.line :=
  ⟨h.line_start, h.line_room, h.line_cap, h.line_raw, h.line_callback⟩

theorem State.Inv.withLine (h : s.Inv) (l : LineState) (hl : LineState.Ok s.cfg l) : State.Inv { s with line := l } :=
  ⟨h.1, h.2, h.3, h.4, h.5, h.6, h.7, h.8, h.9, h.10, h.11, h.12, h.13, h.14, h.15, hl.1, hl.2, hl.3, hl.4, hl.5⟩

theorem LineState.fresh_ok (cfg : Config) (mode : RMode) (n : Nat) (h : cfg.maxRespLen + 1 ≤ n) :
    LineState.Ok cfg (LineState.fresh mode n) :=
  ⟨Nat.le_refl _, Nat.zero_le _, h, fun _ => rfl, fun _ => rfl⟩

variable {cfg : Config} {l : LineState}

theorem LineState.Ok.evict (h : LineState.Ok cfg l) : LineState.Ok cfg l.evict := by
  have h1 := h.start; have h2 := h.room
  refine ⟨?_, ?_, h.cap, fun hm => ?_, h.callback⟩
  · simp only [LineState.evict, List.length_drop]; omega
  · simp only [LineState.evict, List.length_drop]; omega
  · simp only [LineState.evict, h.raw hm]

theorem LineState.Ok.dropCurrent (h : LineState.Ok cfg l) : LineState.Ok cfg l.dropCurrent := by
  have h1 := h.start; have h2 := h.room
  refine ⟨?_, ?_, h.cap, h.raw, h.callback⟩
  · simp only [LineState.dropCurrent, List.length_take]; omega
  · simp only [LineState.dropCurrent, List.length_take]; omega

theorem LineState.Ok.storeTerm (h : LineState.Ok cfg l) (c : Byte) : LineState.Ok cfg (l.storeTerm c) := by
  have h1 := h.start; have h2 := h.room; have h3 := h.cap
  unfold LineState.storeTerm
  by_cases hf : l.buf.length = l.cap
  · have he := h.evict
    have h1' := he.start
    have hroom : l.evict.buf.length + 1 ≤ l.evict.cap := by
      simp only [LineState.evict, List.length_drop]; omega
    simp only [if_pos hf]
    refine ⟨?_, ?_, he.cap, he.raw, he.callback⟩
    · simp only [List.length_append, List.length_singleton]; omega
    · simpa using hroom
  · simp only [if_neg hf]
    refine ⟨?_, ?_, h.cap, h.raw, h.callback⟩
    · simp only [List.length_append, List.length_singleton]; omega
    · simp only [List.length_append, List.length_singleton]; omega

theorem LineState.Ok.store (h : LineState.Ok cfg l) (c : Byte) : LineState.Ok cfg (l.store cfg.maxRespLen c) := by
  have h1 := h.start; have h2 := h.room; have h3 := h.cap
  unfold LineState.store
  split
  · exact h
  · split
    · refine ⟨?_, ?_, h.cap, h.raw, h.callback⟩
      · simp only [List.length_append, List.length_singleton]; omega
      · simp only [List.length_append, List.length_singleton]; omega
    · split
      · have hd := h.dropCurrent
        exact ⟨hd.start, hd.room, hd.cap, hd.raw, hd.callback⟩
      · have he := h.evict
        have h1' := he.start
        refine ⟨?_, ?_, he.cap, he.raw, he.callback⟩
        · simp only [List.length_append, List.length_singleton]; omega
        · simp only [LineState.evict, List.length_drop, List.length_append, List.length_singleton]; omega

theorem LineState.Ok.unknown (h : LineState.Ok cfg l) : LineState.Ok cfg l.unknown := by
  unfold LineState.unknown
  split
  · next hm =>
    have h' := (h.storeTerm chCR).storeTerm chLF
    refine ⟨Nat.le_refl _, h'.room, h'.cap, fun hn => ?_, h'.callback⟩
    exact absurd (show ((l.storeTerm chCR).storeTerm chLF).mode = .raw by
      unfold LineState.storeTerm; split <;> split <;> simpa [LineState.evict] using hm) hn
  · exact h.dropCurrent
  · next hm =>
    have hd := h.dropCurrent
    exact ⟨hd.start, hd.room, hd.cap, hd.raw, fun hn => absurd hm hn⟩

/-- RESP_STEP keeps the line state (43 R291, R304). -/
theorem LineState.Ok.respStep (h : LineState.Ok cfg l) (c : Byte) : LineState.Ok cfg (respStep cfg c l).2 := by
  unfold Machine.respStep
  split
  · split
    · exact ⟨h.start, h.room, h.cap, h.raw, h.callback⟩
    · split
      · exact h
      · split
        · exact h.dropCurrent
        · exact h.unknown
  · exact h.store c

/-! ## The link and the codec -/

theorem State.Inv.linkWrite (h : s.Inv) (b : Byte) : (linkWrite b s).Inv := h.note _

theorem State.Inv.linkRead (h : s.Inv) : (linkRead s).2.Inv := by
  unfold Machine.linkRead
  split
  · exact (h.env _).note _
  · exact (h.env _).note _

theorem State.Inv.busExchange (h : s.Inv) (t : Byte) : (busExchange t s).2.Inv := by
  unfold Machine.busExchange
  split
  · exact (h.env _).note _
  · exact (h.env _).note _

theorem State.Inv.busDataReady (h : s.Inv) : (busDataReady s).2.Inv := by
  unfold Machine.busDataReady
  split
  · exact (h.env _).note _
  · exact (h.env _).note _

theorem State.Inv.expired (h : s.Inv) : (expired s).2.Inv := by
  unfold Machine.expired
  split
  · exact (h.env _).note _
  · exact (h.env _).note _

theorem State.Inv.setFatal (h : s.Inv) (c : FatalCause) (hc : c ≠ .none) : (s.setFatal c).Inv := by
  unfold State.setFatal
  split
  · exact h
  · exact ⟨h.1, h.2, h.3, h.4, h.5, h.6, h.7, h.8, h.9, ⟨fun _ => hc, fun _ => rfl⟩, fun _ => rfl, h.12, h.13, h.14,
      h.15, h.16, h.17, h.18, h.19, h.20⟩

/-- The codec flags in BUS mode: any values, if a full run of ALL-ONES markers goes with a dead block. -/
theorem State.Inv.codecFlags (h : s.Inv) (hb : s.linkMode = .bus) (p e : Bool) (n : Nat) (hn : n < allOnesLimit) :
    State.Inv { s with paused := p, escPending := e, allOnesRun := n } := by
  obtain ⟨c1, c2, c3, c4, c5⟩ := State.registersOk_iff.1 h.counters
  refine ⟨h.1, State.registersOk_iff.2 ⟨c1, c2, ?_, c4, c5⟩, h.3, h.4, h.5, h.6, h.7, h.8, h.9, h.10, ?_, ?_, h.13, h.14,
    h.15, h.16, h.17, h.18, h.19, h.20⟩
  · exact Nat.le_of_lt hn
  · intro hx; simp only at hx; omega
  · intro hx; simp only [hb] at hx; exact absurd hx (by decide)

theorem State.Inv.countAllOnes (h : s.Inv) (hb : s.linkMode = .bus) : s.countAllOnes.Inv := by
  unfold State.countAllOnes
  simp only
  split
  · next hl =>
    obtain ⟨c1, c2, c3, c4, c5⟩ := State.registersOk_iff.1 h.counters
    unfold State.setFatal
    split
    · next hu =>
      refine ⟨h.1, State.registersOk_iff.2 ⟨c1, c2, Nat.min_le_right _ _, c4, c5⟩, h.3, h.4, h.5, h.6, h.7, h.8, h.9,
        h.10, fun _ => hu, ?_, h.13, h.14, h.15, h.16, h.17, h.18, h.19, h.20⟩
      intro hx; simp only [hb] at hx; exact absurd hx (by decide)
    · refine ⟨h.1, State.registersOk_iff.2 ⟨c1, c2, Nat.min_le_right _ _, c4, c5⟩, h.3, h.4, h.5, h.6, h.7, h.8, h.9,
        ⟨fun _ => by simp, fun _ => rfl⟩, fun _ => rfl, ?_, h.13, h.14, h.15, h.16, h.17, h.18, h.19, h.20⟩
      intro hx; simp only [hb] at hx; exact absurd hx (by decide)
  · next hl =>
    exact h.codecFlags hb s.paused s.escPending _ (by
      have := Nat.min_le_right (s.allOnesRun + 1) allOnesLimit; omega)

theorem State.Inv.clearAllOnes (h : s.Inv) (hb : s.linkMode = .bus) : s.clearAllOnes.Inv :=
  h.codecFlags hb s.paused s.escPending 0 (by decide)

theorem State.Inv.txRx (h : s.Inv) (hb : s.linkMode = .bus) (r : Byte) : (txRx r s).Inv := by
  unfold Machine.txRx
  split
  · exact h.countAllOnes hb
  · simp only
    split
    · exact h.codecFlags hb true s.escPending 0 (by decide)
    · split
      · exact h.codecFlags hb false s.escPending 0 (by decide)
      · split
        · exact h.clearAllOnes hb
        · exact (h.clearAllOnes hb).emit _

theorem State.Inv.recvPlain (h : s.Inv) (hb : s.linkMode = .bus) (r : Byte) : (recvPlain r s).2.Inv := by
  unfold Machine.recvPlain
  split
  · exact h.countAllOnes hb
  · simp only
    split
    · exact h.codecFlags hb s.paused true 0 (by decide)
    · split
      · exact h.codecFlags hb true s.escPending 0 (by decide)
      · split
        · exact h.codecFlags hb false s.escPending 0 (by decide)
        · split
          · exact h.clearAllOnes hb
          · exact h.clearAllOnes hb

/-! ## What the link primitives and the codec leave alone -/

/-- The state differs in the codec's registers, the dead state, the environment, the trace and the log alone. -/
def codecOnly (s t : State) : Prop :=
  ∃ (run : Nat) (dead : Bool) (cause : FatalCause) (paused esc : Bool) (env : Env) (trace : List LinkEvent)
    (log : List LogEvent), t = { s with
      allOnesRun := run, unrecoverable := dead, fatalCause := cause, paused := paused, escPending := esc
      env := env, trace := trace, log := log }

theorem codecOnly.refl (s : State) : codecOnly s s := ⟨_, _, _, _, _, _, _, _, rfl⟩

theorem codecOnly.trans {s t u : State} (h : codecOnly s t) (h' : codecOnly t u) : codecOnly s u := by
  obtain ⟨_, _, _, _, _, _, _, _, rfl⟩ := h
  obtain ⟨_, _, _, _, _, _, _, _, rfl⟩ := h'
  exact ⟨_, _, _, _, _, _, _, _, rfl⟩

theorem codecOnly.linkMode {s t : State} (h : codecOnly s t) : t.linkMode = s.linkMode := by
  obtain ⟨_, _, _, _, _, _, _, _, rfl⟩ := h; rfl

theorem codecOnly_linkWrite (b : Byte) (s : State) : codecOnly s (linkWrite b s) := ⟨_, _, _, _, _, _, _, _, rfl⟩

theorem codecOnly_linkRead (s : State) : codecOnly s (linkRead s).2 := by
  unfold linkRead
  split <;> exact ⟨_, _, _, _, _, _, _, _, rfl⟩

theorem codecOnly_busExchange (b : Byte) (s : State) : codecOnly s (busExchange b s).2 := by
  unfold busExchange
  split <;> exact ⟨_, _, _, _, _, _, _, _, rfl⟩

theorem codecOnly_busDataReady (s : State) : codecOnly s (busDataReady s).2 := by
  unfold busDataReady
  split <;> exact ⟨_, _, _, _, _, _, _, _, rfl⟩

theorem codecOnly_expired (s : State) : codecOnly s (expired s).2 := by
  unfold expired
  split <;> exact ⟨_, _, _, _, _, _, _, _, rfl⟩

theorem codecOnly_setFatal (c : FatalCause) (s : State) : codecOnly s (s.setFatal c) := by
  unfold State.setFatal
  split <;> exact ⟨_, _, _, _, _, _, _, _, rfl⟩

theorem codecOnly_countAllOnes (s : State) : codecOnly s s.countAllOnes := by
  unfold State.countAllOnes
  simp only
  split
  · exact codecOnly.trans ⟨_, _, _, _, _, _, _, _, rfl⟩ (codecOnly_setFatal _ _)
  · exact ⟨_, _, _, _, _, _, _, _, rfl⟩

theorem codecOnly_txRx (r : Byte) (s : State) : codecOnly s (txRx r s) := by
  unfold txRx State.clearAllOnes State.emit
  split
  · exact codecOnly_countAllOnes s
  · simp only
    split
    · exact ⟨_, _, _, _, _, _, _, _, rfl⟩
    · split
      · exact ⟨_, _, _, _, _, _, _, _, rfl⟩
      · split <;> exact ⟨_, _, _, _, _, _, _, _, rfl⟩

theorem codecOnly_exchangeOut (t : Byte) (s : State) : codecOnly s (exchangeOut t s) :=
  (codecOnly_busExchange t s).trans (codecOnly_txRx _ _)

theorem codecOnly_exchangeAll (ts : List Byte) (s : State) : codecOnly s (exchangeAll ts s) := by
  induction ts generalizing s with
  | nil => exact codecOnly.refl s
  | cons t ts ih => exact (codecOnly_exchangeOut t s).trans (ih _)

theorem codecOnly_sendByte (b : Byte) (s : State) : codecOnly s (sendByte b s) := by
  unfold sendByte
  split
  · exact codecOnly_linkWrite b s
  · exact codecOnly_exchangeAll _ s

theorem codecOnly_recvPlain (r : Byte) (s : State) : codecOnly s (recvPlain r s).2 := by
  unfold recvPlain State.clearAllOnes
  split
  · exact codecOnly_countAllOnes s
  · simp only
    repeat' split
    all_goals exact ⟨_, _, _, _, _, _, _, _, rfl⟩

theorem codecOnly_recvBus (s : State) : codecOnly s (recvBus s).2 := by
  unfold recvBus
  refine (codecOnly_busExchange s.cfg.busIdle s).trans ?_
  simp only
  split
  · exact ⟨_, _, _, _, _, _, _, _, rfl⟩
  · exact codecOnly_recvPlain _ _

/-- Everything CODEC_RECV can change (40 R155). -/
theorem codecOnly_codecRecv (s : State) : codecOnly s (codecRecv s).2 := by
  unfold codecRecv
  split
  · exact codecOnly.refl s
  · split
    · exact codecOnly_linkRead s
    · split
      · exact codecOnly_recvBus s
      · simp only
        split
        · exact (codecOnly_busDataReady s).trans (codecOnly_recvBus _)
        · exact codecOnly_busDataReady s

/-! ## The codec keeps the invariant -/

theorem State.Inv.exchangeOut (h : s.Inv) (hb : s.linkMode = .bus) (t : Byte) : (exchangeOut t s).Inv := by
  unfold Machine.exchangeOut
  exact (h.busExchange t).txRx ((codecOnly_busExchange t s).linkMode.trans hb) _

theorem State.Inv.exchangeAll (ts : List Byte) : ∀ {s : State}, s.Inv → s.linkMode = .bus → (exchangeAll ts s).Inv := by
  induction ts with
  | nil => intro s h _; exact h
  | cons t ts ih => intro s h hb; exact ih (h.exchangeOut hb t) ((codecOnly_exchangeOut t s).linkMode.trans hb)

theorem State.Inv.sendByte (h : s.Inv) (b : Byte) : (sendByte b s).Inv := by
  unfold Machine.sendByte
  split
  · exact h.linkWrite b
  · next hb => exact State.Inv.exchangeAll _ h hb

theorem State.Inv.recvBus (h : s.Inv) (hb : s.linkMode = .bus) : (recvBus s).2.Inv := by
  unfold Machine.recvBus
  have hm := (codecOnly_busExchange s.cfg.busIdle s).linkMode.trans hb
  simp only
  split
  · exact (h.busExchange _).codecFlags hm _ false 0 (by decide)
  · exact (h.busExchange _).recvPlain hm _

/-- CODEC_RECV keeps the invariant (40 R155). -/
theorem State.Inv.codecRecv (h : s.Inv) : (codecRecv s).2.Inv := by
  unfold Machine.codecRecv
  split
  · exact h
  · split
    · exact h.linkRead
    · next hb =>
      split
      · exact h.recvBus hb
      · simp only
        split
        · exact h.busDataReady.recvBus ((codecOnly_busDataReady s).linkMode.trans hb)
        · exact h.busDataReady

end Sys2Proof.Machine
end

