-- ==== Sys2Proof/Laws/InvReceive.lean ====
section
/-! SUPPORT. The events, the ring and the receive state machine keep the invariant of the registers, and what each leaves
alone. -/

namespace Sys2Proof.Machine

variable {s : State}

/-! ## Events (44_async_events.md) -/

/-- The state differs in the connection and association registers and the log alone. -/
def eventsOnly (s t : State) : Prop :=
  ∃ (conn : Vector Conn 16) (associated : Bool) (assocPending : AssocEvent) (ncmPending : NcmEvent) (ncmValid : Bool)
    (ncmCid : Cid) (log : List LogEvent), t = { s with
      conn := conn, associated := associated, assocPending := assocPending, ncmPending := ncmPending
      ncmValid := ncmValid, ncmCid := ncmCid, log := log }

theorem eventsOnly.refl (s : State) : eventsOnly s s := ⟨_, _, _, _, _, _, _, rfl⟩

theorem eventsOnly.trans {s t u : State} (h : eventsOnly s t) (h' : eventsOnly t u) : eventsOnly s u := by
  obtain ⟨_, _, _, _, _, _, _, rfl⟩ := h
  obtain ⟨_, _, _, _, _, _, _, rfl⟩ := h'
  exact ⟨_, _, _, _, _, _, _, rfl⟩

/-- CONN_DISCONNECT, case by case (44 R344, R350). -/
theorem connDisconnect_eq (c : Cid) (s : State) : connDisconnect c s =
    if (s.connAt c).connected = true then
      if s.ncmValid = true ∧ s.ncmCid = c then
        { s with
          conn := s.conn.set c { s.connAt c with connected := false }
          ncmValid := false
          ncmPending := if s.ncmPending ≠ .none ∧ s.ncmPending ≠ .disconnected then .none else .disconnected }
      else { s with conn := s.conn.set c { s.connAt c with connected := false } }
    else s := rfl

theorem eventsOnly_connDisconnect (c : Cid) (s : State) : eventsOnly s (connDisconnect c s) := by
  unfold connDisconnect
  split
  · simp only
    split <;> exact ⟨_, _, _, _, _, _, _, rfl⟩
  · exact eventsOnly.refl s

theorem eventsOnly_connConnect (c : Cid) (ip : IPv4) (rport lport : Half) (ssl : Bool) (s : State) :
    eventsOnly s (connConnect c ip rport lport ssl s) :=
  (eventsOnly_connDisconnect c s).trans ⟨_, _, _, _, _, _, _, rfl⟩

theorem eventsOnly_connFail (c : Cid) (s : State) : eventsOnly s (connFail c s) :=
  eventsOnly.trans ⟨_, _, _, _, _, _, _, rfl⟩ (eventsOnly_connDisconnect c _)

theorem eventsOnly_cascade (cs : List Cid) (s : State) : eventsOnly s (cs.foldl cascadeOne s) := by
  induction cs generalizing s with
  | nil => exact eventsOnly.refl s
  | cons c cs ih =>
    refine eventsOnly.trans ?_ (ih _)
    unfold cascadeOne
    split
    · exact eventsOnly_connFail c s
    · exact eventsOnly.refl s

theorem eventsOnly_disassocCascade (s : State) : eventsOnly s (disassocCascade s) := by
  unfold disassocCascade
  have h := eventsOnly_cascade (List.finRange 16) s
  generalize List.foldl cascadeOne s (List.finRange 16) = u at h ⊢
  refine h.trans ?_
  dsimp only
  split <;> exact ⟨_, _, _, _, _, _, _, rfl⟩

theorem eventsOnly_assocUpdate (s : State) : eventsOnly s (assocUpdate s) := by
  unfold assocUpdate
  split <;> exact ⟨_, _, _, _, _, _, _, rfl⟩

/-- The three parts of NCM_CONNECT (44 R348). -/
theorem ncmConnect_eq (c : Cid) (s : State) : ∃ u v : State, u = connConnect c IPv4.zero 0 0 false (assocUpdate s)
    ∧ v = (if u.ncmValid ∧ u.ncmCid ≠ c then { u with ncmValid := false }.ncmEdge .disconnected else u)
    ∧ ncmConnect c s = { v with ncmValid := true, ncmCid := c }.ncmEdge .connected := ⟨_, _, rfl, rfl, rfl⟩

theorem eventsOnly_ncmConnect (c : Cid) (s : State) : eventsOnly s (ncmConnect c s) := by
  obtain ⟨u, v, hu, hv, h⟩ := ncmConnect_eq c s
  have h1 : eventsOnly s u := hu ▸ (eventsOnly_assocUpdate s).trans (eventsOnly_connConnect c _ _ _ _ _)
  have h2 : eventsOnly u v := by
    rw [hv]
    split <;> exact ⟨_, _, _, _, _, _, _, rfl⟩
  rw [h]
  exact (h1.trans h2).trans ⟨_, _, _, _, _, _, _, rfl⟩

theorem eventsOnly_eventEffect (name : RespName) (args : List Cid) (s t : State)
    (h : eventEffect name args s = some t) : eventsOnly s t := by
  cases name <;> simp only [eventEffect, connConnectPlain, Option.some.injEq, reduceCtorEq] at h <;> subst h
  all_goals first
    | with_reducible exact eventsOnly.refl _
    | with_reducible exact eventsOnly_connConnect _ _ _ _ _ _
    | with_reducible exact eventsOnly_connFail _ _
    | with_reducible exact eventsOnly_connDisconnect _ _
    | with_reducible exact eventsOnly_disassocCascade _
    | with_reducible exact eventsOnly_ncmConnect _ _

/-- Everything ASYNC_DISPATCH can change (44 R340). -/
theorem eventsOnly_asyncDispatch (subtype : Cid) (body : List Byte) (s : State) :
    eventsOnly s (asyncDispatch subtype body s).2 := by
  have hr : eventsOnly s (rejectEvent s).2 := by
    unfold rejectEvent State.emit
    exact ⟨_, _, _, _, _, _, _, rfl⟩
  unfold asyncDispatch
  simp only
  split
  · exact hr
  · split
    · exact hr
    · split
      · split
        · next h => exact eventsOnly_eventEffect _ _ _ _ h
        · exact hr
      · exact hr

/-- An edge leaves nothing pending or the new event (44 R349, R350). -/
theorem edge_cases {α : Type} [DecidableEq α] {none p e x : α} (h : (if p ≠ none ∧ p ≠ e then none else e) = x) :
    x = none ∨ x = e := by
  by_cases hc : p ≠ none ∧ p ≠ e
  · rw [if_pos hc] at h; exact .inl h.symm
  · rw [if_neg hc] at h; exact .inr h.symm

/-- The registers of the events: any values that agree with one another. -/
theorem State.Inv.events (h : s.Inv) (conn : Vector Conn 16) (a : Bool) (ap : AssocEvent) (np : NcmEvent) (nv : Bool)
    (nc : Cid) (ha : (ap = .associated → a = true) ∧ (ap = .disassociated → a = false))
    (hn : (np = .connected → nv = true) ∧ (np = .disconnected → nv = false))
    (hc : nv = true → (conn[nc]).connected = true) :
    State.Inv { s with
      conn := conn, associated := a, assocPending := ap, ncmPending := np, ncmValid := nv, ncmCid := nc } :=
  ⟨h.1, h.2, h.3, h.4, h.5, h.6, h.7, h.8, h.9, h.10, h.11, h.12, ha, hn, hc, h.16, h.17, h.18, h.19, h.20⟩

theorem State.Inv.setConn (h : s.Inv) (c : Cid) (e : Conn)
    (hc : s.ncmValid = true → s.ncmCid = c → e.connected = true) : (s.setConn c e).Inv := by
  refine h.events _ _ _ _ _ _ h.13 h.14 fun hv => ?_
  have := State.connAt_setConn s c s.ncmCid e
  rw [show (s.setConn c e).connAt s.ncmCid = (s.conn.set c e)[s.ncmCid] from rfl] at this
  rw [this]
  split
  · next hk => exact hc hv hk
  · exact h.ncm_connected hv

theorem State.Inv.connDisconnect (h : s.Inv) (c : Cid) : (connDisconnect c s).Inv := by
  unfold Machine.connDisconnect
  split
  · simp only
    split
    · next hk =>
      exact h.events _ _ _ _ _ _ h.13 ⟨fun hx => (by rcases edge_cases hx with h | h <;> cases h), fun _ => rfl⟩
        (by simp)
    · next hk =>
      exact h.setConn c _ fun hv hc => absurd (And.intro hv hc) hk
  · exact h

theorem State.Inv.connConnect (h : s.Inv) (c : Cid) (ip : IPv4) (rport lport : Half) (ssl : Bool) :
    (connConnect c ip rport lport ssl s).Inv :=
  (h.connDisconnect c).setConn c _ fun _ _ => rfl

theorem State.Inv.connFail (h : s.Inv) (c : Cid) : (connFail c s).Inv := by
  refine State.Inv.connDisconnect (h.setConn c _ fun hv hc => ?_) c
  subst hc
  exact h.ncm_connected hv

theorem State.Inv.cascade (cs : List Cid) : ∀ {s : State}, s.Inv → (cs.foldl cascadeOne s).Inv := by
  induction cs with
  | nil => intro s h; exact h
  | cons c cs ih =>
    intro s h
    refine ih ?_
    unfold cascadeOne
    split
    · exact h.connFail c
    · exact h

theorem State.Inv.disassocCascade (h : s.Inv) : (disassocCascade s).Inv := by
  unfold Machine.disassocCascade
  have h' := State.Inv.cascade (List.finRange 16) h
  generalize List.foldl cascadeOne s (List.finRange 16) = u at h' ⊢
  dsimp only
  split
  · refine h'.events _ _ _ _ _ _ ⟨fun hx => ?_, fun _ => rfl⟩ h'.14 h'.15
    rcases edge_cases hx with h | h <;> cases h
  · exact h'

theorem State.Inv.assocUpdate (h : s.Inv) : (assocUpdate s).Inv := by
  unfold Machine.assocUpdate
  split
  · exact h
  · refine h.events _ _ _ _ _ _ ⟨fun _ => rfl, fun hx => ?_⟩ h.14 h.15
    rcases edge_cases hx with h | h <;> cases h

theorem State.Inv.ncmConnect (h : s.Inv) (c : Cid) : (ncmConnect c s).Inv := by
  obtain ⟨u, v, hu, hv, he⟩ := ncmConnect_eq c s
  have h1 : u.Inv := hu ▸ h.assocUpdate.connConnect c _ _ _ _
  have hconn : (u.conn[c]).connected = true := by
    have := State.connAt_setConn (Machine.connDisconnect c (Machine.assocUpdate s)) c c
      ⟨true, false, IPv4.zero, 0, 0, false⟩
    rw [if_pos rfl] at this
    rw [hu]
    exact congrArg Conn.connected this
  have h2 : v.Inv ∧ v.conn = u.conn := by
    rw [hv]
    split
    · refine ⟨h1.events _ _ _ _ _ _ h1.13 ⟨fun hx => ?_, fun _ => rfl⟩ (by simp), rfl⟩
      rcases edge_cases hx with h | h <;> cases h
    · exact ⟨h1, rfl⟩
  rw [he]
  refine h2.1.events _ _ _ _ _ _ h2.1.13 ⟨fun _ => rfl, fun hx => ?_⟩ fun _ => ?_
  · simp only at hx
    split at hx <;> cases hx
  · rw [show _ = _ from h2.2]
    exact hconn

theorem State.Inv.eventEffect (h : s.Inv) (name : RespName) (args : List Cid) (t : State)
    (ht : eventEffect name args s = some t) : t.Inv := by
  cases name <;> simp only [Machine.eventEffect, connConnectPlain, Option.some.injEq, reduceCtorEq] at ht <;> subst ht
  all_goals first
    | with_reducible exact h
    | with_reducible exact h.connConnect _ _ _ _ _
    | with_reducible exact h.connFail _
    | with_reducible exact h.connDisconnect _
    | with_reducible exact h.disassocCascade
    | with_reducible exact h.ncmConnect _

theorem State.Inv.asyncDispatch (h : s.Inv) (subtype : Cid) (body : List Byte) :
    (asyncDispatch subtype body s).2.Inv := by
  unfold Machine.asyncDispatch
  simp only
  split
  · exact h.emit _
  · split
    · exact h.emit _
    · split
      · split
        · next ht => exact h.eventEffect _ _ _ ht
        · exact h.emit _
      · exact h.emit _

theorem State.Inv.clearEvents (h : s.Inv) : (clearEvents s).Inv :=
  h.events _ _ _ _ _ _ (by simp) (by simp) h.15

/-! ## The ring (42_ring_buffer.md) -/

/-- The state differs in the reading cursor, the tail frame, the connection table and the log alone. -/
def dropOnly (s t : State) : Prop :=
  ∃ (tailIdx : Nat) (tail : FrameHeader) (conn : Vector Conn 16) (log : List LogEvent),
    t = { s with tailIdx := tailIdx, tail := tail, conn := conn, log := log }

theorem dropOnly.refl (s : State) : dropOnly s s := ⟨_, _, _, _, rfl⟩

theorem dropOnly.trans {s t u : State} (h : dropOnly s t) (h' : dropOnly t u) : dropOnly s u := by
  obtain ⟨_, _, _, _, rfl⟩ := h
  obtain ⟨_, _, _, _, rfl⟩ := h'
  exact ⟨_, _, _, _, rfl⟩

theorem dropOnly_popHeader (s : State) : dropOnly s (popHeader s) := ⟨_, _, _, _, rfl⟩

theorem dropOnly_dropUnit (s : State) : dropOnly s (dropUnit s) := by
  unfold dropUnit
  split
  · exact ⟨_, _, _, _, rfl⟩
  · exact dropOnly_popHeader s

theorem dropOnly_dropLoop (n k : Nat) (s : State) : dropOnly s (dropLoop n k s) := by
  induction k generalizing s with
  | zero => exact dropOnly.refl s
  | succ k ih =>
    unfold dropLoop
    split
    · exact (dropOnly_dropUnit s).trans (ih _)
    · exact dropOnly.refl s

/-- Everything DROP_OLDEST can change (42 R251). -/
theorem dropOnly_dropOldest (n : Nat) (s : State) : dropOnly s (dropOldest n s) := dropOnly_dropLoop n _ s

theorem dropOnly_advanceLoop (k : Nat) (s : State) : dropOnly s (advanceLoop k s) := by
  induction k generalizing s with
  | zero => exact dropOnly.refl s
  | succ k ih =>
    unfold advanceLoop
    split
    · exact (dropOnly_popHeader s).trans (ih _)
    · exact dropOnly.refl s

/-- Everything ADVANCE can change (42 R253). -/
theorem dropOnly_advance (s : State) : dropOnly s (advance s) := dropOnly_advanceLoop _ s

theorem dropOnly_popByte (s : State) : dropOnly s (popByte s).2 := by
  unfold popByte
  split
  · exact dropOnly.refl s
  · exact ⟨_, _, _, _, rfl⟩

theorem State.Inv.moveTail (h : s.Inv) (i : Nat) (hi : i < s.cfg.ringCap) (t : FrameHeader) :
    State.Inv { s with tailIdx := i, tail := t } := by
  obtain ⟨c1, c2, c3, c4, c5⟩ := State.registersOk_iff.1 h.counters
  exact ⟨h.1, State.registersOk_iff.2 ⟨c1, hi, c3, c4, c5⟩, h.3, h.4, h.5, h.6, h.7, h.8, h.9, h.10, h.11, h.12, h.13,
    h.14, h.15, h.16, h.17, h.18, h.19, h.20⟩

theorem State.Inv.popHeader (h : s.Inv) : (popHeader s).Inv :=
  h.moveTail _ (Nat.mod_lt _ (by have := h.cap; omega)) _

theorem State.Inv.dropUnit (h : s.Inv) : (dropUnit s).Inv := by
  unfold Machine.dropUnit
  split
  · refine State.Inv.emit (State.Inv.setConn
      (h.moveTail _ (Nat.mod_lt _ (by have := h.cap; omega)) _) _ _ fun hv hc => ?_) _
    have := h.ncm_connected hv
    simp only at hc
    rw [hc] at this
    exact this
  · exact h.popHeader

theorem State.Inv.dropLoop (n k : Nat) : ∀ {s : State}, s.Inv → (dropLoop n k s).Inv := by
  induction k with
  | zero => intro s h; exact h
  | succ k ih =>
    intro s h
    unfold Machine.dropLoop
    split
    · exact ih h.dropUnit
    · exact h

theorem State.Inv.dropOldest (h : s.Inv) (n : Nat) : (dropOldest n s).Inv := State.Inv.dropLoop n _ h

theorem State.Inv.advanceLoop (k : Nat) : ∀ {s : State}, s.Inv → (advanceLoop k s).Inv := by
  induction k with
  | zero => intro s h; exact h
  | succ k ih =>
    intro s h
    unfold Machine.advanceLoop
    split
    · exact ih h.popHeader
    · exact h

theorem State.Inv.advance (h : s.Inv) : (advance s).Inv := State.Inv.advanceLoop _ h

theorem State.Inv.popByte (h : s.Inv) : (popByte s).2.Inv := by
  unfold Machine.popByte
  split
  · exact h
  · exact h.moveTail _ (Nat.mod_lt _ (by have := h.cap; omega)) _

theorem State.Inv.popBytes (k : Nat) : ∀ {s : State}, s.Inv → (popBytes k s).2.Inv := by
  induction k with
  | zero => intro s h; exact h
  | succ k ih => intro s h; exact ih h.popByte

theorem State.Inv.writeRing (h : s.Inv) (r : Memory) (hr : r.wf = true) (hw : r.within s.cfg.ringCap = true) (i : Nat)
    (hi : i < s.cfg.ringCap) : State.Inv { s with ring := r, headIdx := i } := by
  obtain ⟨c1, c2, c3, c4, c5⟩ := State.registersOk_iff.1 h.counters
  exact ⟨h.1, State.registersOk_iff.2 ⟨hi, c2, c3, c4, c5⟩, hr, hw, h.5, h.6, h.7, h.8, h.9, h.10, h.11, h.12, h.13,
    h.14, h.15, h.16, h.17, h.18, h.19, h.20⟩

theorem length_serialize (h : FrameHeader) : (serialize h).length = headerSize h.udp := by
  cases hu : h.udp <;> simp [serialize, headerSize, hu, IPv4.octets, hdrMax, hdrPlain]

theorem headerSize_le (udp : Bool) : headerSize udp ≤ hdrMax := by cases udp <;> decide

/-- A record that the writer has jumped for, or has not had to jump for, fits before the end (20 R72, 42 R244). -/
theorem recordStart_fits (cfg : Config) (i : Nat) (udp : Bool) (hc : 32 ≤ cfg.ringCap) (hi : i < cfg.ringCap) :
    recordStart cfg i + headerSize udp ≤ cfg.ringCap := by
  have := headerSize_le udp
  by_cases hs : skipNeeded cfg i = true
  · simp only [recordStart, hs, if_true, hdrMax] at *
    omega
  · have hs' : ¬ cfg.ringCap - i < hdrMax := fun h => hs (decide_eq_true h)
    simp only [recordStart, hs, hdrMax] at *
    simp
    omega

theorem State.Inv.pushByte (h : s.Inv) (b : Byte) : (pushByte b s).Inv := by
  have h' := h.dropOldest 1
  exact h'.writeRing _ (Memory.wf_write _ _ _ h'.ring_form) (Memory.within_write _ _ _ _ h'.ring_cells h'.head_lt) _
    (Nat.mod_lt _ (by have := h'.cap; omega))

/-- Where PUSH_HEADER writes its record (42 R244). -/
theorem pushHeader_eq (h : FrameHeader) (s : State) : pushHeader h s =
    { dropOldest (deadCells s.cfg s.headIdx + headerSize h.udp) s with
      ring := (dropOldest (deadCells s.cfg s.headIdx + headerSize h.udp) s).ring.writeList
        (if 0 < deadCells s.cfg s.headIdx then 0
          else (dropOldest (deadCells s.cfg s.headIdx + headerSize h.udp) s).headIdx) (serialize h)
      headIdx := ((if 0 < deadCells s.cfg s.headIdx then 0
          else (dropOldest (deadCells s.cfg s.headIdx + headerSize h.udp) s).headIdx) + headerSize h.udp)
        % (dropOldest (deadCells s.cfg s.headIdx + headerSize h.udp) s).cfg.ringCap } := rfl

/-- With a writing cursor in the ring, cells are skipped exactly when the writer jumps. -/
theorem jump_eq (cfg : Config) (i : Nat) (hi : i < cfg.ringCap) :
    (if 0 < deadCells cfg i then 0 else i) = recordStart cfg i := by
  unfold deadCells recordStart
  split <;> simp_all

theorem State.Inv.pushHeader (h : s.Inv) (hd : FrameHeader) : (pushHeader hd s).Inv := by
  rw [pushHeader_eq]
  generalize hn : deadCells s.cfg s.headIdx + headerSize hd.udp = n
  have h' := h.dropOldest n
  have hi := h.head_lt
  have hc := h.cap
  obtain ⟨ti, tl, co, lo, hd'⟩ := dropOnly_dropOldest n s
  rw [hd'] at h' ⊢
  refine h'.writeRing _ (Memory.wf_writeList _ _ _ h'.ring_form) (Memory.within_writeList _ _ _ _ h'.ring_cells ?_) _
    (Nat.mod_lt _ (by simp only; omega))
  simp only
  rw [jump_eq s.cfg s.headIdx hi, length_serialize]
  exact recordStart_fits s.cfg s.headIdx hd.udp hc hi

/-! ## The receive state machine (41_receive_sm.md) -/

/-- What the receive registers must satisfy for the invariant to hold. -/
theorem State.Inv.receive (h : s.Inv) (rx : RxState) (sc : Memory) (n : Nat) (sub : Cid) (al : Nat) (ab : Memory)
    (ac : Nat) (head : FrameHeader) (h1 : sc.wf = true) (h2 : sc.within scratchSize = true) (h3 : ab.wf = true)
    (h4 : ab.within asyncMax = true) (h5 : n ≤ scratchBound rx) (h6 : rx = .async → ac < al ∧ al ≤ asyncMax)
    (h7 : rx = .bulk ↔ head.length ≠ 0) :
    State.Inv { s with
      rxState := rx, scratch := sc, scratchLen := n, asyncSubtype := sub, asyncLen := al, asyncBuf := ab
      asyncCount := ac, head := head } := by
  obtain ⟨c1, c2, c3, c4, c5⟩ := State.registersOk_iff.1 h.counters
  exact ⟨h.1, State.registersOk_iff.2 ⟨c1, c2, c3, h5, h6⟩, h.3, h.4, h1, h2, h3, h4, h7, h.10, h.11, h.12, h.13,
    h.14, h.15, h.16, h.17, h.18, h.19, h.20⟩

/-- A change of receive state that keeps the scratch length in its bound and does not enter Async or Bulk. -/
theorem State.Inv.toState (h : s.Inv) (hb : s.rxState ≠ .bulk) (rx : RxState) (n : Nat) (hn : n ≤ scratchBound rx)
    (ha : rx ≠ .async) (hx : rx ≠ .bulk) : State.Inv { s with rxState := rx, scratchLen := n } :=
  h.receive rx s.scratch n s.asyncSubtype s.asyncLen s.asyncBuf s.asyncCount s.head h.5 h.6 h.7 h.8 hn
    (fun he => absurd he ha) ⟨fun he => absurd he hx, fun he => absurd (h.bulk_head.2 he) hb⟩

theorem State.Inv.parseFail (h : s.Inv) (hb : s.rxState ≠ .bulk) : (parseFail s).Inv :=
  (h.toState hb .idle 0 (Nat.zero_le _) (by decide) (by decide)).emit _

/-! ### Accepting a header -/

theorem dropUnit_head (x : FrameHeader) (s : State) : dropUnit { s with head := x } = { dropUnit s with head := x } := by
  unfold dropUnit
  by_cases h : s.tail.length ≠ 0
  · rw [if_pos h, if_pos h]; rfl
  · rw [if_neg h, if_neg h]; rfl

theorem dropLoop_head (n k : Nat) (x : FrameHeader) (s : State) :
    dropLoop n k { s with head := x } = { dropLoop n k s with head := x } := by
  induction k generalizing s with
  | zero => rfl
  | succ k ih =>
    unfold dropLoop
    by_cases h : s.free < n ∧ 0 < s.used
    · rw [if_pos (show State.free { s with head := x } < n ∧ 0 < State.used { s with head := x } from h), if_pos h,
        dropUnit_head, ih]
    · rw [if_neg (show ¬ (State.free { s with head := x } < n ∧ 0 < State.used { s with head := x }) from h), if_neg h]

/-- PUSH_HEADER neither reads nor writes `head` (42 R244). -/
theorem pushHeader_head (h x : FrameHeader) (s : State) :
    pushHeader h { s with head := x } = { pushHeader h s with head := x } := by
  rw [pushHeader_eq, pushHeader_eq]
  simp only [dropOldest, dropLoop_head]

/-- Everything PUSH_HEADER can change (42 R244). -/
theorem pushHeader_frame (h : FrameHeader) (s : State) :
    ∃ (r : Memory) (hi ti : Nat) (t : FrameHeader) (c : Vector Conn 16) (l : List LogEvent), pushHeader h s =
      { s with ring := r, headIdx := hi, tailIdx := ti, tail := t, conn := c, log := l } := by
  rw [pushHeader_eq]
  obtain ⟨_, _, _, _, hd⟩ := dropOnly_dropOldest (deadCells s.cfg s.headIdx + headerSize h.udp) s
  rw [hd]
  exact ⟨_, _, _, _, _, _, rfl⟩

/-- Everything PUSH_BYTE can change (42 R246). -/
theorem pushByte_frame (b : Byte) (s : State) :
    ∃ (r : Memory) (hi ti : Nat) (t : FrameHeader) (c : Vector Conn 16) (l : List LogEvent), pushByte b s =
      { s with ring := r, headIdx := hi, tailIdx := ti, tail := t, conn := c, log := l } := by
  unfold pushByte
  obtain ⟨_, _, _, _, hd⟩ := dropOnly_dropOldest 1 s
  rw [hd]
  exact ⟨_, _, _, _, _, _, rfl⟩

/-- A header that parsed (41 R193, R198; 10 R41). -/
theorem State.Inv.acceptHeader (h : s.Inv) (hd : FrameHeader) : (acceptHeader hd s).Inv := by
  unfold Machine.acceptHeader
  rw [pushHeader_head]
  have h' := h.pushHeader hd
  refine h'.receive _ _ 0 _ _ _ _ hd h'.5 h'.6 h'.7 h'.8 (Nat.zero_le _) (fun he => ?_) ?_
  · split at he <;> cases he
  · constructor
    · intro he hz; rw [if_pos hz] at he; cases he
    · intro hz; rw [if_neg hz]

/-- A number of `n` digits is below `base ^ n`. -/
theorem parseDigits_lt (base bits : Nat) (cs : List Byte) (v r : Nat) (h : parseDigits base bits cs v = some r) :
    r < (v + 1) * base ^ cs.length := by
  induction cs generalizing v with
  | nil => simp only [parseDigits, Option.some.injEq] at h; simp; omega
  | cons c cs ih =>
    unfold parseDigits at h
    split at h
    · cases h
    · next d _ =>
      by_cases h1 : base ≤ d
      · rw [if_pos h1] at h; cases h
      · rw [if_neg h1] at h
        by_cases h2 : 2 ^ bits ≤ v * base + d
        · rw [if_pos h2] at h; cases h
        · rw [if_neg h2] at h
          have := ih _ h
          calc r < (v * base + d + 1) * base ^ cs.length := this
            _ ≤ ((v + 1) * base) * base ^ cs.length := Nat.mul_le_mul_right _ (by rw [Nat.succ_mul]; omega)
            _ = (v + 1) * base ^ (c :: cs).length := by rw [List.length_cons, Nat.pow_succ, Nat.mul_assoc, Nat.mul_comm base]

theorem parseInt_lt (cs : List Byte) (base bits r : Nat) (h : parseInt cs base bits = some r) :
    r < base ^ cs.length := by
  unfold parseInt at h
  split at h
  · cases h
  · simpa using parseDigits_lt base bits cs 0 r h

/-! ### The arms -/

theorem State.Inv.storeByte (h : s.Inv) (b : Byte) (hb : s.rxState ≠ .bulk)
    (rx : RxState) (hl : s.scratchLen < scratchSize) (hn : s.scratchLen + 1 ≤ scratchBound rx) (hrb : rx ≠ .bulk)
    (hra : rx ≠ .async) : State.Inv { pushScratch b s with rxState := rx } :=
  h.receive rx _ _ s.asyncSubtype s.asyncLen s.asyncBuf s.asyncCount s.head (Memory.wf_write _ _ _ h.5)
    (Memory.within_write _ _ _ _ h.6 hl) h.7 h.8 hn (fun he => absurd he hra)
    ⟨fun he => absurd he hrb, fun he => absurd (h.bulk_head.2 he) hb⟩

theorem State.Inv.rxIdle (h : s.Inv) (b : Byte) (hs : s.rxState = .idle) : (rxIdle b s).2.Inv := by
  have hl := (State.registersOk_iff.1 h.counters).2.2.2.1
  rw [hs] at hl
  unfold Machine.rxIdle
  split
  · exact h.toState (by rw [hs]; decide) .escape s.scratchLen hl (by decide) (by decide)
  · exact h

theorem State.Inv.rxDataResp (h : s.Inv) (r : DataResp) : (rxDataResp r s).Inv := by
  unfold Machine.rxDataResp
  split
  · exact h.dataResponse r s.dataWait
  · exact h.emit _

theorem rxDataResp_rxState (r : DataResp) (s : State) : (rxDataResp r s).rxState = s.rxState := by
  unfold rxDataResp; split <;> rfl

theorem rxDataResp_scratchLen (r : DataResp) (s : State) : (rxDataResp r s).scratchLen = s.scratchLen := by
  unfold rxDataResp; split <;> rfl

theorem State.Inv.rxEscape (h : s.Inv) (b : Byte) (hs : s.rxState = .escape) : (rxEscape b s).Inv := by
  have hb : s.rxState ≠ .bulk := by rw [hs]; decide
  have h0 : ∀ rx : RxState, rx ≠ .async → rx ≠ .bulk → State.Inv { s with scratchLen := 0, rxState := rx } :=
    fun rx ha hx => h.toState hb rx 0 (Nat.zero_le _) ha hx
  have hd : ∀ r : DataResp,
      State.Inv { Machine.rxDataResp r { s with scratchLen := 0 } with rxState := .idle } := by
    intro r
    have h1 : State.Inv { s with scratchLen := 0 } := by
      have := h0 .escape (by decide) (by decide)
      rw [← hs] at this
      exact this
    have h2 := h1.rxDataResp r
    refine h2.toState ?_ .idle _ ?_ (by decide) (by decide)
    · rw [rxDataResp_rxState]; exact hb
    · rw [rxDataResp_scratchLen]; exact Nat.zero_le _
  unfold Machine.rxEscape
  dsimp only
  by_cases h1 : b = s.cfg.introZ
  · rw [if_pos h1]; exact h0 .escapeZ (by decide) (by decide)
  rw [if_neg h1]
  by_cases h2 : b = s.cfg.introA
  · rw [if_pos h2]; exact h0 .escapeA (by decide) (by decide)
  rw [if_neg h2]
  by_cases h3 : b = s.cfg.introY
  · rw [if_pos h3]; exact h0 .escapeY1 (by decide) (by decide)
  rw [if_neg h3]
  by_cases h4 : b = s.cfg.introOk
  · rw [if_pos h4]; exact hd _
  rw [if_neg h4]
  by_cases h5 : b = s.cfg.introFail
  · rw [if_pos h5]; exact hd _
  rw [if_neg h5]
  by_cases h6 : b = s.cfg.escChar
  · rw [if_pos h6]; exact h0 .escape (by decide) (by decide)
  rw [if_neg h6]
  exact (h0 .idle (by decide) (by decide)).emit _

/-- In a header state, with a stored byte, before the header is complete or after (41 R193 to R198). -/
theorem State.Inv.stored (h : s.Inv) (b : Byte) (hb : s.rxState ≠ .bulk)
    (hl : s.scratchLen < scratchSize) : State.Inv { pushScratch b s with rxState := .idle } :=
  h.storeByte b hb .idle hl hl (by decide) (by decide)

theorem parseFail_stored (b : Byte) (s : State) :
    parseFail (pushScratch b s) = parseFail { pushScratch b s with rxState := .idle } := rfl

theorem acceptHeader_rxState (hd : FrameHeader) (rx : RxState) (s : State) :
    acceptHeader hd { s with rxState := rx } = acceptHeader hd s := by
  have key : ∀ (n k : Nat) (s : State), dropLoop n k { s with rxState := rx } = { dropLoop n k s with rxState := rx } := by
    intro n k
    induction k with
    | zero => intro s; rfl
    | succ k ih =>
      intro s
      unfold dropLoop
      by_cases h : s.free < n ∧ 0 < s.used
      · rw [if_pos (show State.free { s with rxState := rx } < n ∧ 0 < State.used { s with rxState := rx } from h),
          if_pos h]
        have hu : dropUnit { s with rxState := rx } = { dropUnit s with rxState := rx } := by
          unfold dropUnit
          by_cases h : s.tail.length ≠ 0
          · rw [if_pos h, if_pos h]; rfl
          · rw [if_neg h, if_neg h]; rfl
        rw [hu, ih]
      · rw [if_neg (show ¬ (State.free { s with rxState := rx } < n ∧ 0 < State.used { s with rxState := rx }) from h),
          if_neg h]
  unfold acceptHeader
  rw [pushHeader_head, pushHeader_head, pushHeader_eq, pushHeader_eq]
  simp only [dropOldest, key]

theorem State.Inv.rxEscapeZ (h : s.Inv) (b : Byte) (hs : s.rxState = .escapeZ) : (rxEscapeZ b s).Inv := by
  have hl := (State.registersOk_iff.1 h.counters).2.2.2.1
  rw [hs] at hl
  simp only [scratchBound] at hl
  have hi := h.stored b (by rw [hs]; decide) (by simp only [scratchSize]; omega)
  unfold Machine.rxEscapeZ
  dsimp only
  by_cases hn : (Machine.pushScratch b s).scratchLen < 5
  · rw [if_pos hn]
    have := h.storeByte b (by rw [hs]; decide) .escapeZ (by simp only [scratchSize]; omega)
      (by simp only [Machine.pushScratch] at hn; simp only [scratchBound]; omega) (by decide) (by decide)
    rw [← hs] at this
    exact this
  · rw [if_neg hn]
    split
    · rw [← acceptHeader_rxState _ .idle]; exact hi.acceptHeader _
    · rw [parseFail_stored]; exact hi.parseFail (by simp)

theorem State.Inv.rxEscapeY3 (h : s.Inv) (b : Byte) (hs : s.rxState = .escapeY3) : (rxEscapeY3 b s).Inv := by
  have hl := (State.registersOk_iff.1 h.counters).2.2.2.1
  rw [hs] at hl
  simp only [scratchBound] at hl
  have hi := h.stored b (by rw [hs]; decide) (by simp only [scratchSize]; omega)
  unfold Machine.rxEscapeY3
  dsimp only
  by_cases hn : (Machine.pushScratch b s).scratchLen < 4
  · rw [if_pos hn]
    have := h.storeByte b (by rw [hs]; decide) .escapeY3 (by simp only [scratchSize]; omega)
      (by simp only [Machine.pushScratch] at hn; simp only [scratchBound]; omega) (by decide) (by decide)
    rw [← hs] at this
    exact this
  · rw [if_neg hn]
    split
    · rw [← acceptHeader_rxState _ .idle]; exact hi.acceptHeader _
    · rw [parseFail_stored]; exact hi.parseFail (by simp)

theorem State.Inv.rxEscapeY1 (h : s.Inv) (b : Byte) (hs : s.rxState = .escapeY1) : (rxEscapeY1 b s).Inv := by
  have hl := (State.registersOk_iff.1 h.counters).2.2.2.1
  rw [hs] at hl
  simp only [scratchBound] at hl
  have hb : s.rxState ≠ .bulk := by rw [hs]; decide
  unfold Machine.rxEscapeY1
  split
  · split
    · exact h.parseFail hb
    · split
      · next c ip _ _ =>
        exact (h.toState hb .escapeY2 0 (Nat.zero_le _) (by decide) (by decide)).udpFields c ip s.yPort
      · exact h.parseFail hb
  · split
    · exact h.parseFail hb
    · next hx =>
      have := h.storeByte b hb .escapeY1 (by simp only [scratchSize] at *; omega)
        (by simp only [scratchBound, scratchSize] at *; omega) (by decide) (by decide)
      rw [← hs] at this
      exact this

theorem State.Inv.rxEscapeY2 (h : s.Inv) (b : Byte) (hs : s.rxState = .escapeY2) : (rxEscapeY2 b s).Inv := by
  have hl := (State.registersOk_iff.1 h.counters).2.2.2.1
  rw [hs] at hl
  simp only [scratchBound] at hl
  have hb : s.rxState ≠ .bulk := by rw [hs]; decide
  unfold Machine.rxEscapeY2
  split
  · split
    · exact h.parseFail hb
    · split
      · next p _ =>
        exact (h.toState hb .escapeY3 0 (Nat.zero_le _) (by decide) (by decide)).udpFields s.yCid s.yIp p
      · exact h.parseFail hb
  · split
    · exact h.parseFail hb
    · next hx =>
      have := h.storeByte b hb .escapeY2 (by simp only [scratchSize]; omega)
        (by simp only [scratchBound]; omega) (by decide) (by decide)
      rw [← hs] at this
      exact this

/-! ASYNC_DISPATCH neither reads nor writes `rxState`. -/

theorem connDisconnect_rxState (rx : RxState) (c : Cid) (s : State) :
    connDisconnect c { s with rxState := rx } = { connDisconnect c s with rxState := rx } := by
  rw [connDisconnect_eq, connDisconnect_eq]
  by_cases h : (s.connAt c).connected = true
  · rw [if_pos h, if_pos (show (State.connAt { s with rxState := rx } c).connected = true from h)]
    by_cases h2 : s.ncmValid = true ∧ s.ncmCid = c
    · rw [if_pos h2, if_pos (show State.ncmValid { s with rxState := rx } = true ∧ _ from h2)]
      rfl
    · rw [if_neg h2, if_neg (show ¬ (State.ncmValid { s with rxState := rx } = true ∧ _) from h2)]
      rfl
  · rw [if_neg h, if_neg (show ¬ (State.connAt { s with rxState := rx } c).connected = true from h)]

theorem connConnect_rxState (rx : RxState) (c : Cid) (ip : IPv4) (rport lport : Half) (ssl : Bool) (s : State) :
    connConnect c ip rport lport ssl { s with rxState := rx } =
      { connConnect c ip rport lport ssl s with rxState := rx } := by
  unfold connConnect
  rw [connDisconnect_rxState]
  rfl

theorem connFail_rxState (rx : RxState) (c : Cid) (s : State) :
    connFail c { s with rxState := rx } = { connFail c s with rxState := rx } :=
  connDisconnect_rxState rx c (s.setConn c { s.connAt c with error := true })

theorem cascade_rxState (rx : RxState) (cs : List Cid) (s : State) :
    cs.foldl cascadeOne { s with rxState := rx } = { cs.foldl cascadeOne s with rxState := rx } := by
  induction cs generalizing s with
  | nil => rfl
  | cons c cs ih =>
    have h1 : cascadeOne { s with rxState := rx } c = { cascadeOne s c with rxState := rx } := by
      unfold cascadeOne
      by_cases h : (s.connAt c).connected = true
      · rw [if_pos (show (State.connAt { s with rxState := rx } c).connected = true from h), if_pos h,
          connFail_rxState]
      · rw [if_neg (show ¬ (State.connAt { s with rxState := rx } c).connected = true from h), if_neg h]
    rw [List.foldl_cons, List.foldl_cons, h1, ih]

theorem disassocCascade_rxState (rx : RxState) (s : State) :
    disassocCascade { s with rxState := rx } = { disassocCascade s with rxState := rx } := by
  unfold disassocCascade
  rw [cascade_rxState]
  generalize List.foldl cascadeOne s (List.finRange 16) = u
  dsimp only
  by_cases h : u.associated = true
  · rw [if_pos h, if_pos h]; rfl
  · rw [if_neg h, if_neg h]

theorem assocUpdate_rxState (rx : RxState) (s : State) :
    assocUpdate { s with rxState := rx } = { assocUpdate s with rxState := rx } := by
  unfold assocUpdate
  by_cases h : s.associated = true
  · rw [if_pos h, if_pos h]
  · rw [if_neg h, if_neg h]; rfl

theorem ncmConnect_rxState (rx : RxState) (c : Cid) (s : State) :
    ncmConnect c { s with rxState := rx } = { ncmConnect c s with rxState := rx } := by
  obtain ⟨u, v, hu, hv, he⟩ := ncmConnect_eq c s
  obtain ⟨u', v', hu', hv', he'⟩ := ncmConnect_eq c { s with rxState := rx }
  rw [assocUpdate_rxState, connConnect_rxState, ← hu] at hu'
  have hv2 : v' = { v with rxState := rx } := by
    rw [hv', hv, hu']
    by_cases h : u.ncmValid = true ∧ u.ncmCid ≠ c
    · rw [if_pos h, if_pos h]; rfl
    · rw [if_neg h, if_neg h]
  rw [he', he, hv2]
  rfl

theorem eventEffect_rxState (rx : RxState) (name : RespName) (args : List Cid) (s : State) :
    eventEffect name args { s with rxState := rx } =
      (eventEffect name args s).map fun t => { t with rxState := rx } := by
  cases name <;>
    simp only [eventEffect, connConnectPlain, connConnect_rxState, connFail_rxState, connDisconnect_rxState,
      disassocCascade_rxState, ncmConnect_rxState, Option.map_some, Option.map_none]

theorem asyncDispatch_rxState (rx : RxState) (subtype : Cid) (body : List Byte) (s : State) :
    (asyncDispatch subtype body { s with rxState := rx }).2 =
      { (asyncDispatch subtype body s).2 with rxState := rx } := by
  unfold asyncDispatch
  dsimp only
  by_cases h : stripBody body = []
  · rw [if_pos h, if_pos h]; rfl
  · rw [if_neg h, if_neg h]
    cases hk : classifyLine s.cfg (stripBody body) with
    | unknown => rfl
    | code c name args =>
      dsimp only
      by_cases h2 : s.cfg.subtype c = some subtype
      · rw [if_pos h2, if_pos h2, eventEffect_rxState]
        cases eventEffect name args s with
        | none => rfl
        | some t => rfl
      · rw [if_neg h2, if_neg h2]; rfl

/-- ASYNC_DISPATCH leaves the receive registers alone. -/
theorem asyncDispatch_receive (subtype : Cid) (body : List Byte) (s : State) :
    (asyncDispatch subtype body s).2.rxState = s.rxState ∧ (asyncDispatch subtype body s).2.head = s.head
      ∧ (asyncDispatch subtype body s).2.scratchLen = s.scratchLen := by
  obtain ⟨_, _, _, _, _, _, _, h⟩ := eventsOnly_asyncDispatch subtype body s
  rw [h]
  exact ⟨rfl, rfl, rfl⟩

theorem State.Inv.rxEscapeA (h : s.Inv) (b : Byte) (hs : s.rxState = .escapeA) : (rxEscapeA b s).Inv := by
  have hl := (State.registersOk_iff.1 h.counters).2.2.2.1
  rw [hs] at hl
  simp only [scratchBound] at hl
  have hb : s.rxState ≠ .bulk := by rw [hs]; decide
  have hi := h.stored b hb (by simp only [scratchSize]; omega)
  unfold Machine.rxEscapeA
  dsimp only
  by_cases hn : (Machine.pushScratch b s).scratchLen < 3
  · rw [if_pos hn]
    have := h.storeByte b hb .escapeA (by simp only [scratchSize]; omega)
      (by simp only [Machine.pushScratch] at hn; simp only [scratchBound]; omega) (by decide) (by decide)
    rw [← hs] at this
    exact this
  · rw [if_neg hn]
    split
    · next t n _ hp =>
      have hc : State.Inv { Machine.pushScratch b s with scratchLen := 0, rxState := .escapeA } :=
        hi.toState (by simp) .escapeA 0 (Nat.zero_le _) (by decide) (by decide)
      split
      · have hd : State.Inv { Machine.pushScratch b s with scratchLen := 0 } := by
          have := hc
          rw [← hs] at this
          exact this
        obtain ⟨e1, e2, e3⟩ := asyncDispatch_receive t [] { Machine.pushScratch b s with scratchLen := 0 }
        exact (hd.asyncDispatch t []).toState (by rw [e1]; exact hb) .idle _ (by rw [e3]; exact Nat.zero_le _)
          (by decide) (by decide)
      · next hn0 =>
        have hlt := parseInt_lt _ _ _ _ hp
        simp only [scratchSlice, Memory.length_readN, asyncLenBase] at hlt
        refine hc.receive .async _ 0 t n _ 0 _ hc.5 hc.6 hc.7 hc.8 (Nat.zero_le _) (fun _ => ?_) ⟨fun he => (by cases he),
          fun he => absurd (h.bulk_head.2 he) hb⟩
        simp only [asyncMax]
        omega
    · rw [parseFail_stored]; exact hi.parseFail (by simp)

theorem State.Inv.rxAsync (h : s.Inv) (b : Byte) (hs : s.rxState = .async) : (rxAsync b s).Inv := by
  obtain ⟨_, _, _, hl, hc⟩ := State.registersOk_iff.1 h.counters
  obtain ⟨hc1, hc2⟩ := hc hs
  have hb : s.rxState ≠ .bulk := by rw [hs]; decide
  have hw := Memory.wf_write s.asyncBuf s.asyncCount b h.7
  have hn := Memory.within_write s.asyncBuf s.asyncCount asyncMax b h.8 (by omega)
  have hh : ¬ s.head.length ≠ 0 := fun he => hb (h.bulk_head.2 he)
  rw [hs] at hl
  unfold Machine.rxAsync
  dsimp only
  split
  · next he =>
    have hi : State.Inv { s with
        asyncBuf := s.asyncBuf.write s.asyncCount b, asyncCount := s.asyncCount + 1, rxState := .idle } :=
      h.receive .idle _ _ _ _ _ _ _ h.5 h.6 hw hn hl (fun hx => by cases hx) ⟨fun hx => (by cases hx), fun hx => absurd hx hh⟩
    generalize Memory.readN _ _ _ = body
    have hd := hi.asyncDispatch s.asyncSubtype body
    have he := asyncDispatch_rxState .idle s.asyncSubtype body { s with
      asyncBuf := s.asyncBuf.write s.asyncCount b, asyncCount := s.asyncCount + 1 }
    dsimp only at he
    rw [he] at hd
    exact hd.receive .idle _ _ _ _ _ 0 _ hd.5 hd.6 hd.7 hd.8 (State.registersOk_iff.1 hd.counters).2.2.2.1
      (fun hx => (by cases hx)) hd.bulk_head
  · next he =>
    exact h.receive _ _ _ _ _ _ _ _ h.5 h.6 hw hn (by rw [hs]; exact hl)
      (fun _ => ⟨by omega, hc2⟩) ⟨fun hx => absurd hx hb, fun hx => absurd hx hh⟩

theorem State.Inv.rxBulk (h : s.Inv) (b : Byte) (hs : s.rxState = .bulk) : (rxBulk b s).Inv := by
  unfold Machine.rxBulk
  have hp := h.pushByte b
  obtain ⟨r, hi, ti, tl, c, l, he⟩ := pushByte_frame b s
  rw [he] at hp ⊢
  dsimp only
  refine hp.receive _ _ _ _ _ _ _ _ hp.5 hp.6 hp.7 hp.8 ?_ (fun hx => ?_) ?_
  · have := (State.registersOk_iff.1 h.counters).2.2.2.1
    rw [hs] at this ⊢
    by_cases hz : s.head.length - 1 = 0
    · rw [if_pos hz]; exact this
    · rw [if_neg hz]; exact this
  · rw [hs] at hx
    split at hx <;> cases hx
  · rw [hs]
    constructor
    · intro hx hz; rw [if_pos hz] at hx; cases hx
    · intro hz; rw [if_neg hz]

/-- RX_PROCESS keeps the invariant (41 R190). -/
theorem State.Inv.rxProcess (h : s.Inv) (b : Byte) : (rxProcess b s).2.Inv := by
  unfold Machine.rxProcess
  split
  · next hs => exact h.rxIdle b hs
  · next hs => exact h.rxEscape b hs
  · next hs => exact h.rxEscapeZ b hs
  · next hs => exact h.rxEscapeA b hs
  · next hs => exact h.rxEscapeY1 b hs
  · next hs => exact h.rxEscapeY2 b hs
  · next hs => exact h.rxEscapeY3 b hs
  · next hs => exact h.rxAsync b hs
  · next hs => exact h.rxBulk b hs

end Sys2Proof.Machine
end

