-- ==== Sys2Proof/Laws/InvStep.lean ====
section
/-! SUPPORT. The waits, the polls and the lifecycle keep the invariant of the registers (Safety.lean), one lemma for each
shared operation of Machine/Waits.lean and Machine/HostOps.lean. -/

namespace Sys2Proof.Machine

variable {s : State}

/-! ## Lifecycle -/

theorem State.Inv.initRegisters (h : s.Inv) : s.initRegisters.Inv := by
  have hc := h.cap
  refine ⟨h.1, State.registersOk_iff.2 ⟨?_, ?_, Nat.zero_le _, Nat.zero_le _, fun he => (by cases he)⟩, h.3, h.4, h.5,
    h.6, h.7, h.8, ?_, ?_, fun he => (by cases he), fun _ => ⟨rfl, rfl, rfl⟩,
    ⟨fun he => (by cases he), fun he => (by cases he)⟩, ⟨fun he => (by cases he), fun he => (by cases he)⟩,
    fun he => (by cases he), h.16, h.17, h.18, h.19, h.20⟩
  · change 0 < s.cfg.ringCap; omega
  · change 0 < s.cfg.ringCap; omega
  · exact ⟨fun he => (by cases he), fun he => absurd rfl he⟩
  · exact ⟨fun he => (by cases he), fun he => absurd rfl he⟩

/-- STOP's initialisation keeps the invariant (70 R522). -/
theorem State.Inv.stopInit (h : s.Inv) : s.stopInit.Inv := h.initRegisters.lifecycle _

/-- START's initialisation keeps the invariant in either mode (70 R521). -/
theorem State.Inv.startInit (h : s.Inv) (m : LinkMode) : (s.startInit m).Inv := by
  have h' := h.initRegisters
  exact ⟨h'.1, h'.2, h'.3, h'.4, h'.5, h'.6, h'.7, h'.8, h'.9, h'.10, h'.11, fun _ => ⟨rfl, rfl, rfl⟩, h'.13, h'.14,
    h'.15, h'.16, h'.17, h'.18, h'.19, h'.20⟩

/-! ## Waits -/

theorem State.Inv.sendBytes (bs : List Byte) : ∀ {s : State}, s.Inv → (sendBytes bs s).2.Inv := by
  induction bs with
  | nil => intro s h; exact h
  | cons b bs ih =>
    intro s h
    unfold Machine.sendBytes
    split
    · exact h
    · split
      · exact h
      · exact ih (h.sendByte b)

theorem State.Inv.beginFrame (h : s.Inv) (c : Cid) (a : Option NetAddr) (data : List Byte) (k : FrameCaller) :
    (beginFrame c a data k s).Inv := (h.dataResponse .none true).beginActivity _

theorem State.Inv.writeNext (h : s.Inv) (c : Cid) (a : Option NetAddr) (data : List Byte) (n : Nat) :
    (writeNext c a data n s).Inv := by
  unfold Machine.writeNext
  split
  · exact h.finish _
  · split
    · exact h.beginFrame _ _ _ _
    · exact h.finish _

theorem State.Inv.frameDone (h : s.Inv) (k : FrameCaller) (c : ResultCode) : (frameDone k c s).Inv := by
  have hw : State.Inv { s with dataWait := false } := h.dataResponse s.dataResp false
  unfold Machine.frameDone
  split
  · exact h.finish _
  · exact hw.finish _
  · dsimp only
    split
    · exact hw.writeNext _ _ _ _
    · exact hw.finish _

theorem State.Inv.freshLine (h : s.Inv) : State.Inv { s with line := LineState.fresh .discard s.cfg.lineBufInternal } :=
  h.withLine _ (LineState.fresh_ok _ _ _ (Config.maxRespLen_lt_internal _ h.config))

theorem State.Inv.sendDone (h : s.Inv) (k : SendThen) : (sendDone k s).Inv := by
  unfold Machine.sendDone
  split
  · exact h.finish _
  · exact h.finish _
  · exact h.freshLine.beginActivity _
  · split
    · exact h.onlyActivity _
    · exact h.frameDone _ _

theorem State.Inv.sendFailed (h : s.Inv) (k : SendThen) : (sendFailed k s).Inv := by
  unfold Machine.sendFailed
  split
  · exact h.finish _
  · exact h.finish _
  · exact h.finish _
  · exact h.frameDone _ _

theorem State.Inv.passSend (h : s.Inv) (tx : List Byte) (k : SendThen) : (passSend tx k s).Inv := by
  unfold Machine.passSend
  split
  · exact h.sendFailed k
  · split
    · next hb =>
      have h' := h.exchangeOut hb.1 s.cfg.busIdle
      dsimp only
      split
      · exact h'.sendFailed k
      · exact h'
    · have h' := State.Inv.sendBytes tx h
      dsimp only
      split
      · exact h'.sendFailed k
      · split
        · exact h'.sendDone k
        · exact h'.onlyActivity _

theorem State.Inv.endResponse (h : s.Inv) (r : List Byte) : (s.endResponse r).Inv := h.freshLine.finish _

theorem State.Inv.responseEffect (h : s.Inv) (name : RespName) (args : List Cid) : (responseEffect name args s).Inv := by
  unfold Machine.responseEffect
  split
  · exact h.disassocCascade
  · exact h.connConnect _ _ _ _ _
  · exact h

theorem State.Inv.responseDone (h : s.Inv) (e : Bool) (c : Nat) (name : RespName) (args : List Cid) :
    (responseDone e c name args s).Inv := (h.responseEffect name args).endResponse _

theorem State.Inv.responseLine (h : s.Inv) (e : Bool) (b : Byte) : (responseLine e b s).Inv := by
  have h' := h.withLine _ (h.lineOk.respStep b)
  unfold Machine.responseLine
  dsimp only
  split
  · exact h'
  · exact h'.responseDone _ _ _ _

theorem State.Inv.passResponse (h : s.Inv) (e : Bool) : (passResponse e s).Inv := by
  have h' := h.codecRecv
  unfold Machine.passResponse
  dsimp only
  split
  · exact h'.endResponse _
  · split
    · split
      · exact (h'.expired.setFatal _ (by decide)).endResponse _
      · exact h'.expired
    · next b _ =>
      have hx := h'.rxProcess b
      split
      · exact hx
      · exact hx.responseLine _ _

theorem State.Inv.passDataWait (h : s.Inv) (k : FrameCaller) : (passDataWait k s).Inv := by
  have h' := h.codecRecv
  unfold Machine.passDataWait
  split
  · exact h.frameDone _ _
  · exact h.frameDone _ _
  · dsimp only
    split
    · exact h'.frameDone _ _
    · split
      · split
        · exact (h'.expired.setFatal _ (by decide)).frameDone _ _
        · exact h'.expired
      · next b _ => exact h'.rxProcess b

theorem State.Inv.pass (h : s.Inv) (a : Activity) : (pass a s).Inv := by
  unfold Machine.pass
  split
  · exact h.passSend _ _
  · exact h.passResponse _
  · exact h.passDataWait _

theorem State.Inv.runActivity (n : Nat) : ∀ {s : State}, s.Inv → (runActivity n s).Inv := by
  induction n with
  | zero => intro s h; exact h
  | succ n ih =>
    intro s h
    unfold Machine.runActivity
    split
    · exact h
    · exact ih (h.pass _)

/-- An operation in progress keeps the invariant (log 6). -/
theorem State.Inv.resume (h : s.Inv) : s.resume.Inv := State.Inv.runActivity _ h

/-! ## Polls -/

theorem State.Inv.pollOnce (h : s.Inv) : (pollOnce s).2.Inv := by
  have h' := h.codecRecv
  unfold Machine.pollOnce
  dsimp only
  split
  · exact h'
  · split
    · exact h'
    · next b _ => exact h'.rxProcess b

theorem State.Inv.prepare (h : s.Inv) : (prepare s).2.Inv := by
  unfold Machine.prepare
  have ha := h.advance
  dsimp only
  split
  · split
    · exact ha.pollOnce
    · exact ha.pollOnce.advance
  · exact ha

theorem State.Inv.prepared (h : s.Inv) (f : State → State) (hf : ∀ t : State, t.Inv → (f t).Inv) :
    (s.prepared f).Inv := by
  unfold State.prepared
  dsimp only
  split
  · exact hf _ h.prepare
  · exact h.prepare.hostCode _

theorem State.Inv.forCid (h : s.Inv) (c : Cid) (f : State → State) (hf : (f s).Inv) : (s.forCid c f).Inv := by
  unfold State.forCid
  split
  · exact h.hostCode _
  · split
    · exact h.hostCode _
    · exact hf

theorem State.Inv.answerByte (h : s.Inv) (o : List Byte) (v : Option Byte) : (s.answerByte o v).Inv := by
  unfold State.answerByte
  split
  · exact h.hostOk _
  · exact h.hostCode _

theorem State.Inv.serviceLoop (n : Nat) : ∀ {s : State}, s.Inv → (serviceLoop n s).2.Inv := by
  induction n with
  | zero => intro s h; exact h
  | succ n ih =>
    intro s h
    have h' := h.pollOnce
    unfold Machine.serviceLoop
    dsimp only
    split
    · exact h'
    · exact h'
    · split
      · exact h'
      · exact ih h'

end Sys2Proof.Machine
end

