-- ==== Sys2Proof/Laws/Ops.lean ====
section
/-! SUPPORT. What the shared operations can do, one lemma for each: the gate and the operands, the counts of a result
record, the link primitives with a scripted answer, sending on the bus, the receive state machine, the operations in
progress, and RESP_STEP of many bytes. -/

namespace Sys2Proof.Machine

/-! ## The gate and the operands (46 R464) -/

/-- The gate's three cases. -/
theorem State.gated_eq (s : State) (f : State → State) : s.gated f =
    if s.lifecycle = .stopped then { s with result := some (.record [0x01]) }
    else if s.unrecoverable = true then { s with result := some (.record [0x02]) }
    else f s := rfl

theorem State.gated_alive (s : State) (f : State → State) (h : s.alive) : s.gated f = f s := by
  rw [State.gated_eq, if_neg h.1, if_neg (by rw [h.2]; decide)]

@[simp] theorem cidOperand_cid (c : Cid) : cidOperand (BitVec.ofNat 8 c.val) = some c := by
  have hc := c.isLt
  have ht : (BitVec.ofNat 8 c.val).toNat = c.val := by simp; omega
  unfold cidOperand
  rw [ht, if_pos hc]
  exact congrArg some (Fin.ext (Nat.mod_eq_of_lt hc))

theorem cidOperand_none (b : Byte) (h : 15 < b.toNat) : cidOperand b = none := by
  unfold cidOperand
  rw [if_neg (by omega)]

@[simp] theorem State.withOperand_some {α : Type} (s : State) (v : α) (f : α → State) :
    s.withOperand (some v) f = f v := rfl

@[simp] theorem State.withOperand_none {α : Type} (s : State) (f : α → State) :
    s.withOperand none f = { s with result := some (.record [0x03]) } := rfl

/-! ## The counts of a result record (43 R305, log 13) -/

theorem argcByte_of_lt (n : Nat) (h : n < 256) : argcByte n = BitVec.ofNat 8 n := if_pos h

theorem countBytes_of_lt (n : Nat) (h : n < 65536) : countBytes n = [BitVec.ofNat 8 n, BitVec.ofNat 8 (n / 256)] := by
  have hh : ∀ w : Half, halfBytes w = [BitVec.ofNat 8 w.toNat, BitVec.ofNat 8 (w.toNat / 256)] := by
    intro w
    simp only [halfBytes, List.cons.injEq, and_true]
    constructor
    · apply BitVec.eq_of_toNat_eq; simp [lowByte]
    · apply BitVec.eq_of_toNat_eq; simp [highByte, Nat.shiftRight_eq_div_pow]
  unfold countBytes
  rw [if_pos h, hh, BitVec.toNat_ofNat, Nat.mod_eq_of_lt (by omega)]

/-! ## The link primitives with a scripted answer (00 R9 to R11, log 5) -/

theorem linkRead_script (s : State) (a : Option Byte) (rest : List (Option Byte)) (h : s.env.linkReads = a :: rest) :
    linkRead s = (a, { s with env := { s.env with linkReads := rest }, trace := .read a :: s.trace }) := by
  unfold linkRead
  rw [h]
  rfl

theorem busExchange_script (t r : Byte) (s : State) (rest : List Byte) (h : s.env.exchanges = r :: rest) :
    busExchange t s = (r, { s with env := { s.env with exchanges := rest }, trace := .exchange t r :: s.trace }) := by
  unfold busExchange
  rw [h]
  rfl

theorem busDataReady_script (s : State) (a : Bool) (rest : List Bool) (h : s.env.dataReady = a :: rest) :
    busDataReady s = (a, { s with env := { s.env with dataReady := rest }, trace := .ready a :: s.trace }) := by
  unfold busDataReady
  rw [h]
  rfl

theorem expired_script (s : State) (a : Bool) (rest : List Bool) (h : s.env.expired = a :: rest) :
    expired s = (a, { s with env := { s.env with expired := rest }, trace := .expired a :: s.trace }) := by
  unfold expired
  rw [h]
  rfl

/-! ## Sending in BUS mode while the module answers BUS_IDLE (40 R150, R151) -/

theorem reserved_idle (cfg : Config) : cfg.busIdle ∈ cfg.reserved := by simp [Config.reserved]

/-- An exchange of CODEC_SEND that the module answers with BUS_IDLE (40 R150): the value has gone out, the run of
ALL-ONES is over, nothing else has changed. -/
theorem exchangeOut_idle (t : Byte) (s : State) (rest : List Byte) (hv : s.cfg.valid = true)
    (h : s.env.exchanges = s.cfg.busIdle :: rest) :
    exchangeOut t s = { s with
      env := { s.env with exchanges := rest }, trace := .exchange t s.cfg.busIdle :: s.trace, allOnesRun := 0 } := by
  have hn := Config.reserved_nodup s.cfg hv
  simp only [Config.reserved, List.nodup_cons, List.mem_cons, not_or] at hn
  unfold exchangeOut
  rw [busExchange_script t s.cfg.busIdle s rest h]
  unfold txRx State.clearAllOnes
  dsimp only
  rw [if_neg hn.2.2.1.2.2.2.1, if_neg hn.2.2.1.1, if_neg hn.2.2.1.2.2.1, if_pos (reserved_idle s.cfg)]

/-- The same for a run of exchanges. -/
theorem exchangeAll_idle (wire : List Byte) : ∀ (s : State) (rest : List Byte), s.cfg.valid = true → wire ≠ [] →
    s.env.exchanges = List.replicate wire.length s.cfg.busIdle ++ rest →
    exchangeAll wire s = { s with
      env := { s.env with exchanges := rest }
      trace := (wire.map fun t => LinkEvent.exchange t s.cfg.busIdle).reverse ++ s.trace
      allOnesRun := 0 } := by
  induction wire with
  | nil => intro s rest _ hne; exact absurd rfl hne
  | cons t ts ih =>
    intro s rest hv _ h
    have h' : s.env.exchanges = s.cfg.busIdle :: (List.replicate ts.length s.cfg.busIdle ++ rest) := by
      rw [h]; rfl
    rw [exchangeAll, exchangeOut_idle t s _ hv h']
    by_cases hts : ts = []
    · subst hts; simp [exchangeAll]
    · refine (ih { s with
        env := { s.env with exchanges := List.replicate ts.length s.cfg.busIdle ++ rest }
        trace := .exchange t s.cfg.busIdle :: s.trace, allOnesRun := 0 } rest hv hts rfl).trans ?_
      simp

theorem escBytes_ne_nil (cfg : Config) (b : Byte) : escBytes cfg b ≠ [] := by
  unfold escBytes
  split <;> simp

/-- `sendBytes` in BUS mode while the module answers BUS_IDLE (40 R151): every byte's escaped form goes out. -/
theorem sendBytes_idle (bytes : List Byte) : ∀ (s : State) (rest : List Byte), s.cfg.valid = true → s.linkMode = .bus →
    s.unrecoverable = false → s.paused = false → bytes ≠ [] →
    s.env.exchanges = List.replicate (bytes.flatMap (escBytes s.cfg)).length s.cfg.busIdle ++ rest →
    sendBytes bytes s = ([], { s with
      env := { s.env with exchanges := rest }
      trace := ((bytes.flatMap (escBytes s.cfg)).map fun t => LinkEvent.exchange t s.cfg.busIdle).reverse ++ s.trace
      allOnesRun := 0 }) := by
  induction bytes with
  | nil => intro s rest _ _ _ _ hne; exact absurd rfl hne
  | cons b bs ih =>
    intro s rest hv hm hu hp _ h
    rw [List.flatMap_cons, List.length_append, List.replicate_add, List.append_assoc] at h
    have hsend : sendByte b s = exchangeAll (escBytes s.cfg b) s := by unfold sendByte; rw [hm]
    rw [sendBytes, if_neg (by simp [hu]), if_neg (by simp [hp]), hsend,
      exchangeAll_idle _ s _ hv (escBytes_ne_nil _ _) h]
    by_cases hbs : bs = []
    · subst hbs; simp [sendBytes]
    · refine (ih { s with
        env := { s.env with exchanges := List.replicate (bs.flatMap (escBytes s.cfg)).length s.cfg.busIdle ++ rest }
        trace := ((escBytes s.cfg b).map fun t => LinkEvent.exchange t s.cfg.busIdle).reverse ++ s.trace
        allOnesRun := 0 } rest hv hm hu hp hbs rfl).trans ?_
      simp

/-! ## CODEC_RECV (40 R155) -/

theorem codecRecv_dead (s : State) (h : s.unrecoverable = true) : codecRecv s = (none, s) := by
  unfold codecRecv
  rw [if_pos h]

theorem codecRecv_stream (s : State) (hu : s.unrecoverable = false) (hm : s.linkMode = .stream) :
    codecRecv s = linkRead s := by
  unfold codecRecv
  rw [if_neg (by rw [hu]; decide), hm]

/-! ## RX_PROCESS (41 R190) -/

/-- The state differs in the registers of the receive path, the ring, the events and the log alone. -/
def receiveOnly (s t : State) : Prop :=
  ∃ (rx : RxState) (sc : Memory) (sl : Nat) (st : Cid) (al : Nat) (ab : Memory) (ac : Nat) (yc : Cid) (yi : IPv4)
    (yp : Half) (hd : FrameHeader) (dr : DataResp) (rg : Memory) (hi ti : Nat) (tl : FrameHeader)
    (conn : Vector Conn 16) (as : Bool) (ap : AssocEvent) (np : NcmEvent) (nv : Bool) (nc : Cid)
    (log : List LogEvent), t = { s with
      rxState := rx, scratch := sc, scratchLen := sl, asyncSubtype := st, asyncLen := al, asyncBuf := ab
      asyncCount := ac, yCid := yc, yIp := yi, yPort := yp, head := hd, dataResp := dr, ring := rg, headIdx := hi
      tailIdx := ti, tail := tl, conn := conn, associated := as, assocPending := ap, ncmPending := np
      ncmValid := nv, ncmCid := nc, log := log }

theorem receiveOnly.refl (s : State) : receiveOnly s s :=
  ⟨_, _, _, _, _, _, _, _, _, _, _, _, _, _, _, _, _, _, _, _, _, _, _, rfl⟩

theorem receiveOnly.trans {s t u : State} (h : receiveOnly s t) (h' : receiveOnly t u) : receiveOnly s u := by
  obtain ⟨_, _, _, _, _, _, _, _, _, _, _, _, _, _, _, _, _, _, _, _, _, _, _, rfl⟩ := h
  obtain ⟨_, _, _, _, _, _, _, _, _, _, _, _, _, _, _, _, _, _, _, _, _, _, _, rfl⟩ := h'
  exact ⟨_, _, _, _, _, _, _, _, _, _, _, _, _, _, _, _, _, _, _, _, _, _, _, rfl⟩

theorem eventsOnly.receive {s t : State} (h : eventsOnly s t) : receiveOnly s t := by
  obtain ⟨_, _, _, _, _, _, _, rfl⟩ := h
  exact ⟨_, _, _, _, _, _, _, _, _, _, _, _, _, _, _, _, _, _, _, _, _, _, _, rfl⟩

theorem receiveOnly_parseFail (s : State) : receiveOnly s (parseFail s) :=
  ⟨_, _, _, _, _, _, _, _, _, _, _, _, _, _, _, _, _, _, _, _, _, _, _, rfl⟩

theorem receiveOnly_pushScratch (b : Byte) (s : State) : receiveOnly s (pushScratch b s) :=
  ⟨_, _, _, _, _, _, _, _, _, _, _, _, _, _, _, _, _, _, _, _, _, _, _, rfl⟩

theorem receiveOnly_acceptHeader (h : FrameHeader) (s : State) : receiveOnly s (acceptHeader h s) := by
  unfold acceptHeader
  obtain ⟨_, _, _, _, _, _, he⟩ := pushHeader_frame h { s with head := h }
  rw [he]
  exact ⟨_, _, _, _, _, _, _, _, _, _, _, _, _, _, _, _, _, _, _, _, _, _, _, rfl⟩

theorem receiveOnly_rxDataResp (r : DataResp) (s : State) : receiveOnly s (rxDataResp r s) := by
  unfold rxDataResp
  split <;> exact ⟨_, _, _, _, _, _, _, _, _, _, _, _, _, _, _, _, _, _, _, _, _, _, _, rfl⟩

/-- A change of the receive state and its counters after any of the above. -/
theorem receiveOnly.counters {s t : State} (h : receiveOnly s t) (rx : RxState) (sl : Nat) (st : Cid) (al ac : Nat) :
    receiveOnly s { t with rxState := rx, scratchLen := sl, asyncSubtype := st, asyncLen := al, asyncCount := ac } :=
  h.trans ⟨_, _, _, _, _, _, _, _, _, _, _, _, _, _, _, _, _, _, _, _, _, _, _, rfl⟩

theorem receiveOnly_rxEscape (b : Byte) (s : State) : receiveOnly s (rxEscape b s) := by
  unfold rxEscape
  have h0 : receiveOnly s { s with scratchLen := 0 } :=
    ⟨_, _, _, _, _, _, _, _, _, _, _, _, _, _, _, _, _, _, _, _, _, _, _, rfl⟩
  have hr := fun r => h0.trans (receiveOnly_rxDataResp r { s with scratchLen := 0 })
  dsimp only
  repeat' split
  all_goals first
    | exact (hr _).counters _ _ _ _ _
    | exact ⟨_, _, _, _, _, _, _, _, _, _, _, _, _, _, _, _, _, _, _, _, _, _, _, rfl⟩

theorem receiveOnly_rxEscapeZ (b : Byte) (s : State) : receiveOnly s (rxEscapeZ b s) := by
  unfold rxEscapeZ
  have h0 := receiveOnly_pushScratch b s
  dsimp only
  split
  · exact h0
  · split
    · exact h0.trans (receiveOnly_acceptHeader _ _)
    · exact h0.trans (receiveOnly_parseFail _)

theorem receiveOnly_rxEscapeA (b : Byte) (s : State) : receiveOnly s (rxEscapeA b s) := by
  unfold rxEscapeA
  have h0 := receiveOnly_pushScratch b s
  dsimp only
  split
  · exact h0
  · split
    · split
      · exact ((h0.counters _ 0 _ _ _).trans (eventsOnly_asyncDispatch _ _ _).receive).counters _ _ _ _ _
      · exact h0.counters _ _ _ _ _
    · exact h0.trans (receiveOnly_parseFail _)

theorem receiveOnly_rxAsync (b : Byte) (s : State) : receiveOnly s (rxAsync b s) := by
  unfold rxAsync
  have h0 : receiveOnly s { s with asyncBuf := s.asyncBuf.write s.asyncCount b, asyncCount := s.asyncCount + 1 } :=
    ⟨_, _, _, _, _, _, _, _, _, _, _, _, _, _, _, _, _, _, _, _, _, _, _, rfl⟩
  dsimp only
  split
  · exact (h0.trans (eventsOnly_asyncDispatch _ _ _).receive).counters _ _ _ _ _
  · exact h0

theorem receiveOnly_rxEscapeY1 (b : Byte) (s : State) : receiveOnly s (rxEscapeY1 b s) := by
  unfold rxEscapeY1
  split
  · split
    · exact receiveOnly_parseFail s
    · split
      · exact ⟨_, _, _, _, _, _, _, _, _, _, _, _, _, _, _, _, _, _, _, _, _, _, _, rfl⟩
      · exact receiveOnly_parseFail s
  · split
    · exact receiveOnly_parseFail s
    · exact receiveOnly_pushScratch b s

theorem receiveOnly_rxEscapeY2 (b : Byte) (s : State) : receiveOnly s (rxEscapeY2 b s) := by
  unfold rxEscapeY2
  split
  · split
    · exact receiveOnly_parseFail s
    · split
      · exact ⟨_, _, _, _, _, _, _, _, _, _, _, _, _, _, _, _, _, _, _, _, _, _, _, rfl⟩
      · exact receiveOnly_parseFail s
  · split
    · exact receiveOnly_parseFail s
    · exact receiveOnly_pushScratch b s

theorem receiveOnly_rxEscapeY3 (b : Byte) (s : State) : receiveOnly s (rxEscapeY3 b s) := by
  unfold rxEscapeY3
  have h0 := receiveOnly_pushScratch b s
  dsimp only
  split
  · exact h0
  · split
    · exact h0.trans (receiveOnly_acceptHeader _ _)
    · exact h0.trans (receiveOnly_parseFail _)

theorem receiveOnly_rxBulk (b : Byte) (s : State) : receiveOnly s (rxBulk b s) := by
  unfold rxBulk
  obtain ⟨_, _, _, _, _, _, he⟩ := pushByte_frame b s
  rw [he]
  exact ⟨_, _, _, _, _, _, _, _, _, _, _, _, _, _, _, _, _, _, _, _, _, _, _, rfl⟩

/-- Everything RX_PROCESS can change (41 R190). -/
theorem receiveOnly_rxProcess (b : Byte) (s : State) : receiveOnly s (rxProcess b s).2 := by
  unfold rxProcess
  split
  · unfold rxIdle
    split <;> exact ⟨_, _, _, _, _, _, _, _, _, _, _, _, _, _, _, _, _, _, _, _, _, _, _, rfl⟩
  · exact receiveOnly_rxEscape b s
  · exact receiveOnly_rxEscapeZ b s
  · exact receiveOnly_rxEscapeA b s
  · exact receiveOnly_rxEscapeY1 b s
  · exact receiveOnly_rxEscapeY2 b s
  · exact receiveOnly_rxEscapeY3 b s
  · exact receiveOnly_rxAsync b s
  · exact receiveOnly_rxBulk b s

/-! ## Operations in progress (log 6) -/

/-- The parameters, the lifecycle, the link mode and the ports are the same. -/
structure keepsMode (s t : State) : Prop where
  cfg : t.cfg = s.cfg
  lifecycle : t.lifecycle = s.lifecycle
  linkMode : t.linkMode = s.linkMode
  port : t.port = s.port

theorem keepsMode.refl (s : State) : keepsMode s s := ⟨rfl, rfl, rfl, rfl⟩

theorem keepsMode.trans {s t u : State} (h : keepsMode s t) (h' : keepsMode t u) : keepsMode s u :=
  ⟨h'.1.trans h.1, h'.2.trans h.2, h'.3.trans h.3, h'.4.trans h.4⟩

theorem codecOnly.keeps {s t : State} (h : codecOnly s t) : keepsMode s t := by
  obtain ⟨_, _, _, _, _, _, _, _, rfl⟩ := h
  exact ⟨rfl, rfl, rfl, rfl⟩

theorem receiveOnly.keeps {s t : State} (h : receiveOnly s t) : keepsMode s t := by
  obtain ⟨_, _, _, _, _, _, _, _, _, _, _, _, _, _, _, _, _, _, _, _, _, _, _, rfl⟩ := h
  exact ⟨rfl, rfl, rfl, rfl⟩

theorem keepsMode_sendBytes (bs : List Byte) (s : State) : keepsMode s (sendBytes bs s).2 := by
  induction bs generalizing s with
  | nil => exact .refl s
  | cons b bs ih =>
    unfold sendBytes
    split
    · exact .refl s
    · split
      · exact .refl s
      · exact (codecOnly_sendByte b s).keeps.trans (ih _)

theorem keepsMode_writeNext (c : Cid) (a : Option NetAddr) (data : List Byte) (n : Nat) (s : State) :
    keepsMode s (writeNext c a data n s) := by
  unfold writeNext
  repeat' split
  all_goals exact ⟨rfl, rfl, rfl, rfl⟩

theorem keepsMode_frameDone (k : FrameCaller) (c : ResultCode) (s : State) : keepsMode s (frameDone k c s) := by
  have h0 : keepsMode s { s with dataWait := false } := ⟨rfl, rfl, rfl, rfl⟩
  unfold frameDone
  split
  · exact ⟨rfl, rfl, rfl, rfl⟩
  · exact ⟨rfl, rfl, rfl, rfl⟩
  · dsimp only
    split
    · exact h0.trans (keepsMode_writeNext _ _ _ _ _)
    · exact ⟨rfl, rfl, rfl, rfl⟩

theorem keepsMode_sendDone (k : SendThen) (s : State) : keepsMode s (sendDone k s) := by
  unfold sendDone
  split
  · exact ⟨rfl, rfl, rfl, rfl⟩
  · exact ⟨rfl, rfl, rfl, rfl⟩
  · exact ⟨rfl, rfl, rfl, rfl⟩
  · split
    · exact ⟨rfl, rfl, rfl, rfl⟩
    · exact keepsMode_frameDone _ _ _

theorem keepsMode_sendFailed (k : SendThen) (s : State) : keepsMode s (sendFailed k s) := by
  unfold sendFailed
  split
  · exact ⟨rfl, rfl, rfl, rfl⟩
  · exact ⟨rfl, rfl, rfl, rfl⟩
  · exact ⟨rfl, rfl, rfl, rfl⟩
  · exact keepsMode_frameDone _ _ _

theorem keepsMode_responseDone (e : Bool) (c : Nat) (name : RespName) (args : List Cid) (s : State) :
    keepsMode s (responseDone e c name args s) := by
  have h : keepsMode s (responseEffect name args s) := by
    unfold responseEffect connConnectPlain
    split
    · exact (eventsOnly_disassocCascade s).receive.keeps
    · exact (eventsOnly_connConnect _ _ _ _ _ s).receive.keeps
    · exact .refl s
  exact h.trans ⟨rfl, rfl, rfl, rfl⟩

theorem keepsMode_endResponse (r : List Byte) (s : State) : keepsMode s (s.endResponse r) := ⟨rfl, rfl, rfl, rfl⟩

theorem keepsMode_responseLine (e : Bool) (b : Byte) (s : State) : keepsMode s (responseLine e b s) := by
  unfold responseLine
  generalize respStep s.cfg b s.line = x
  have h0 : keepsMode s { s with line := x.2 } := ⟨rfl, rfl, rfl, rfl⟩
  dsimp only
  split
  · exact h0
  · exact h0.trans (keepsMode_responseDone _ _ _ _ _)

theorem keepsMode_passSend (tx : List Byte) (k : SendThen) (s : State) : keepsMode s (passSend tx k s) := by
  have hx := (codecOnly_exchangeOut s.cfg.busIdle s).keeps
  have hs := keepsMode_sendBytes tx s
  unfold passSend
  split
  · exact keepsMode_sendFailed _ _
  · split
    · dsimp only
      split
      · exact hx.trans (keepsMode_sendFailed _ _)
      · exact hx
    · dsimp only
      split
      · exact hs.trans (keepsMode_sendFailed _ _)
      · split
        · exact hs.trans (keepsMode_sendDone _ _)
        · exact ⟨hs.cfg, hs.lifecycle, hs.linkMode, hs.port⟩

theorem keepsMode_passResponse (e : Bool) (s : State) : keepsMode s (passResponse e s) := by
  have hr := (codecOnly_codecRecv s).keeps
  unfold passResponse
  generalize codecRecv s = x at hr
  dsimp only
  split
  · exact hr.trans (keepsMode_endResponse _ _)
  · split
    · have he := hr.trans (codecOnly_expired _).keeps
      split
      · exact (he.trans (codecOnly_setFatal _ _).keeps).trans (keepsMode_endResponse _ _)
      · exact he
    · next b _ =>
      have hb := hr.trans (receiveOnly_rxProcess b _).keeps
      split
      · exact hb
      · exact hb.trans (keepsMode_responseLine _ _ _)

theorem keepsMode_passDataWait (k : FrameCaller) (s : State) : keepsMode s (passDataWait k s) := by
  have hr := (codecOnly_codecRecv s).keeps
  unfold passDataWait
  generalize codecRecv s = x at hr
  split
  · exact keepsMode_frameDone _ _ _
  · exact keepsMode_frameDone _ _ _
  · dsimp only
    split
    · exact hr.trans (keepsMode_frameDone _ _ _)
    · split
      · have he := hr.trans (codecOnly_expired _).keeps
        split
        · exact (he.trans (codecOnly_setFatal _ _).keeps).trans (keepsMode_frameDone _ _ _)
        · exact he
      · exact hr.trans (receiveOnly_rxProcess _ _).keeps

/-- One pass of an operation in progress keeps the mode and takes no word. -/
theorem keepsMode_pass (a : Activity) (s : State) : keepsMode s (pass a s) := by
  unfold pass
  split
  · exact keepsMode_passSend _ _ s
  · exact keepsMode_passResponse _ s
  · exact keepsMode_passDataWait _ s

theorem keepsMode_runActivity (n : Nat) (s : State) : keepsMode s (runActivity n s) := by
  induction n generalizing s with
  | zero => exact .refl s
  | succ n ih =>
    unfold runActivity
    split
    · exact .refl s
    · exact (keepsMode_pass _ s).trans (ih _)

/-- An operation in progress keeps the mode and takes no word. -/
theorem keepsMode_resume (s : State) : keepsMode s s.resume := keepsMode_runActivity _ s

/-! ## CLASSIFY_LINE (43 R295) -/

/-- The number of the line "OK" is that of the one row named SUCCESS (log 24). -/
theorem Config.okCode_of_one (cfg : Config) (r : RespRow)
    (h : cfg.respTable.filter (fun r => r.name == .success) = [r]) : cfg.okCode = r.code := by
  unfold Config.okCode
  rw [h]

/-! ## RESP_STEP (43 R304) -/

@[simp] theorem after_respStep (c : Byte) (s : State) : after (.respStep c) s =
    { s with line := (respStep s.cfg c s.line).2, result := some (.lineStep (respStep s.cfg c s.line).1) } := rfl

theorem feedLine_append (xs : List Byte) : ∀ (ys : List Byte) (s : State),
    feedLine (xs ++ ys) s = feedLine ys (feedLine xs s) := by
  induction xs with
  | nil => intro ys s; rfl
  | cons x xs ih => intro ys s; exact ih ys _

/-- RESP_STEP of many bytes changes the line state and the result alone. -/
theorem feedLine_only (bytes : List Byte) : ∀ s : State,
    feedLine bytes s = { s with line := (feedLine bytes s).line, result := (feedLine bytes s).result } := by
  induction bytes with
  | nil => intro s; rfl
  | cons b bs ih => intro s; exact ih (after (.respStep b) s)

end Sys2Proof.Machine
end

