-- ==== Sys2Proof/Laws/PerInstr.lean ====
section
/-! SUPPORT. The statement of the family Encoding, one lemma for each operation: the shape of an operation's word. -/

namespace Sys2Proof.Laws

/-- The word of an operation is its code, one of 30 R119 for the host port and of 30 R120 for the micro port, and its
operand bytes, at most 16 beside the bytes of a string. -/
def Encoding.Statement (i : Instr) : Prop :=
  ∃ (code : Byte) (operands : List Byte), encode i = code :: operands
    ∧ (i.port = .host → 0x01 ≤ code.toNat ∧ code.toNat ≤ 0x2B)
    ∧ (i.port = .micro → 0x80 ≤ code.toNat ∧ code.toNat ≤ 0x99)
    ∧ (i.wellFormed = true → operands.length < 65536 + 16)

theorem fitsHalf_iff (data : List Byte) : fitsHalf data = true ↔ data.length < 65536 := by
  simp [fitsHalf]

theorem length_dataBytes (data : List Byte) : (dataBytes data).length = data.length + 2 := by
  simp [dataBytes, halfBytes]

theorem length_headerOperand (h : FrameHeader) : (headerOperand h).length = 10 := rfl

theorem length_addrOperand_le (a : Option NetAddr) : (addrOperand a).length ≤ 7 := by
  cases a <;> simp [addrOperand, IPv4.octets, halfBytes]

theorem length_formOperand_le (f : FormatArg) : (formOperand f).length ≤ 11 := by
  cases f <;> simp [formOperand, IPv4.octets, halfBytes, length_headerOperand]

namespace Encoding

theorem host {i : Instr} {code : Byte} {operands : List Byte} (he : encode i = code :: operands) (hp : i.port = .host)
    (h1 : 0x01 ≤ code.toNat) (h2 : code.toNat ≤ 0x2B) (hl : i.wellFormed = true → operands.length < 65536 + 16) :
    Statement i :=
  ⟨code, operands, he, fun _ => ⟨h1, h2⟩, fun h => (by rw [hp] at h; cases h), hl⟩

theorem micro {i : Instr} {code : Byte} {operands : List Byte} (he : encode i = code :: operands) (hp : i.port = .micro)
    (h1 : 0x80 ≤ code.toNat) (h2 : code.toNat ≤ 0x99) (hl : i.wellFormed = true → operands.length < 65536 + 16) :
    Statement i :=
  ⟨code, operands, he, fun h => (by rw [hp] at h; cases h), fun _ => ⟨h1, h2⟩, hl⟩

theorem start (mode : Byte) : Statement (.start mode) :=
  host rfl rfl (by decide) (by decide) fun _ => Nat.le_of_ble_eq_true rfl

theorem startDone (ok : Byte) : Statement (.startDone ok) :=
  host rfl rfl (by decide) (by decide) fun _ => Nat.le_of_ble_eq_true rfl

theorem stop : Statement (.stop) :=
  host rfl rfl (by decide) (by decide) fun _ => Nat.le_of_ble_eq_true rfl

theorem service : Statement (.service) :=
  host rfl rfl (by decide) (by decide) fun _ => Nat.le_of_ble_eq_true rfl

theorem poll : Statement (.poll) :=
  host rfl rfl (by decide) (by decide) fun _ => Nat.le_of_ble_eq_true rfl

theorem status : Statement (.status) :=
  host rfl rfl (by decide) (by decide) fun _ => Nat.le_of_ble_eq_true rfl

theorem peek (cid : Byte) : Statement (.peek cid) :=
  host rfl rfl (by decide) (by decide) fun _ => Nat.le_of_ble_eq_true rfl

theorem read (cid : Byte) : Statement (.read cid) :=
  host rfl rfl (by decide) (by decide) fun _ => Nat.le_of_ble_eq_true rfl

theorem readAny : Statement (.readAny) :=
  host rfl rfl (by decide) (by decide) fun _ => Nat.le_of_ble_eq_true rfl

theorem readBuf (cid : Byte) (n : Half) : Statement (.readBuf cid n) :=
  host rfl rfl (by decide) (by decide) fun _ => Nat.le_of_ble_eq_true rfl

theorem firstCid : Statement (.firstCid) :=
  host rfl rfl (by decide) (by decide) fun _ => Nat.le_of_ble_eq_true rfl

theorem available (cid : Byte) : Statement (.available cid) :=
  host rfl rfl (by decide) (by decide) fun _ => Nat.le_of_ble_eq_true rfl

theorem availableAny : Statement (.availableAny) :=
  host rfl rfl (by decide) (by decide) fun _ => Nat.le_of_ble_eq_true rfl

theorem write (cid : Byte) (data : List Byte) : Statement (.write cid data) :=
  host rfl rfl (by decide) (by decide) fun h => by
    have := (fitsHalf_iff data).1 h; simp [length_dataBytes]; omega

theorem writeTo (cid : Byte) (ip : IPv4) (port : Half) (data : List Byte) : Statement (.writeTo cid ip port data) :=
  host rfl rfl (by decide) (by decide) fun h => by
    have := (fitsHalf_iff data).1 h; simp [length_dataBytes, IPv4.octets, halfBytes]; omega

theorem sendCommand (text : List Byte) : Statement (.sendCommand text) :=
  host rfl rfl (by decide) (by decide) fun h => by
    have := (fitsHalf_iff text).1 h; simp [length_dataBytes]; omega

theorem readResponse (rmode : Byte) (n : Half) : Statement (.readResponse rmode n) :=
  host rfl rfl (by decide) (by decide) fun _ => Nat.le_of_ble_eq_true rfl

theorem sendCommandExpectOk (text : List Byte) : Statement (.sendCommandExpectOk text) :=
  host rfl rfl (by decide) (by decide) fun h => by
    have := (fitsHalf_iff text).1 h; simp [length_dataBytes]; omega

theorem connQuery (cid : Byte) : Statement (.connQuery cid) :=
  host rfl rfl (by decide) (by decide) fun _ => Nat.le_of_ble_eq_true rfl

theorem connSet (cid : Byte) (ip : IPv4) (rport lport : Half) (ssl : Byte) :
    Statement (.connSet cid ip rport lport ssl) :=
  host rfl rfl (by decide) (by decide) fun _ => Nat.le_of_ble_eq_true rfl

theorem assocQuery : Statement (.assocQuery) :=
  host rfl rfl (by decide) (by decide) fun _ => Nat.le_of_ble_eq_true rfl

theorem assocSet : Statement (.assocSet) :=
  host rfl rfl (by decide) (by decide) fun _ => Nat.le_of_ble_eq_true rfl

theorem codecSend (b : Byte) : Statement (.codecSend b) :=
  micro rfl rfl (by decide) (by decide) fun _ => Nat.le_of_ble_eq_true rfl

theorem codecRecv : Statement (.codecRecv) :=
  micro rfl rfl (by decide) (by decide) fun _ => Nat.le_of_ble_eq_true rfl

theorem rxProcess (b : Byte) : Statement (.rxProcess b) :=
  micro rfl rfl (by decide) (by decide) fun _ => Nat.le_of_ble_eq_true rfl

theorem pushHeader (h : FrameHeader) : Statement (.pushHeader h) :=
  micro rfl rfl (by decide) (by decide) fun _ => Nat.le_of_ble_eq_true rfl

theorem pushByte (b : Byte) : Statement (.pushByte b) :=
  micro rfl rfl (by decide) (by decide) fun _ => Nat.le_of_ble_eq_true rfl

theorem popHeader : Statement (.popHeader) :=
  micro rfl rfl (by decide) (by decide) fun _ => Nat.le_of_ble_eq_true rfl

theorem peekByte : Statement (.peekByte) :=
  micro rfl rfl (by decide) (by decide) fun _ => Nat.le_of_ble_eq_true rfl

theorem popByte : Statement (.popByte) :=
  micro rfl rfl (by decide) (by decide) fun _ => Nat.le_of_ble_eq_true rfl

theorem availableBytes : Statement (.availableBytes) :=
  micro rfl rfl (by decide) (by decide) fun _ => Nat.le_of_ble_eq_true rfl

theorem dropOldest (n : Byte) : Statement (.dropOldest n) :=
  micro rfl rfl (by decide) (by decide) fun _ => Nat.le_of_ble_eq_true rfl

theorem advance : Statement (.advance) :=
  micro rfl rfl (by decide) (by decide) fun _ => Nat.le_of_ble_eq_true rfl

theorem classifyLine (line : List Byte) : Statement (.classifyLine line) :=
  micro rfl rfl (by decide) (by decide) fun h => by
    have := (fitsHalf_iff line).1 h; simp [length_dataBytes]; omega

theorem respStep (c : Byte) : Statement (.respStep c) :=
  micro rfl rfl (by decide) (by decide) fun _ => Nat.le_of_ble_eq_true rfl

theorem asyncDispatch (subtype : Cid) (body : List Byte) : Statement (.asyncDispatch subtype body) :=
  micro rfl rfl (by decide) (by decide) fun h => by
    have := (fitsHalf_iff body).1 h; simp [length_dataBytes]; omega

theorem connConnect (cid : Cid) (ip : IPv4) (rport lport : Half) (ssl : Bool) :
    Statement (.connConnect cid ip rport lport ssl) :=
  micro rfl rfl (by decide) (by decide) fun _ => Nat.le_of_ble_eq_true rfl

theorem connDisconnect (cid : Cid) : Statement (.connDisconnect cid) :=
  micro rfl rfl (by decide) (by decide) fun _ => Nat.le_of_ble_eq_true rfl

theorem connFail (cid : Cid) : Statement (.connFail cid) :=
  micro rfl rfl (by decide) (by decide) fun _ => Nat.le_of_ble_eq_true rfl

theorem disassocCascade : Statement (.disassocCascade) :=
  micro rfl rfl (by decide) (by decide) fun _ => Nat.le_of_ble_eq_true rfl

theorem assocUpdate : Statement (.assocUpdate) :=
  micro rfl rfl (by decide) (by decide) fun _ => Nat.le_of_ble_eq_true rfl

theorem ncmConnect (cid : Cid) : Statement (.ncmConnect cid) :=
  micro rfl rfl (by decide) (by decide) fun _ => Nat.le_of_ble_eq_true rfl

theorem takeEvents : Statement (.takeEvents) :=
  micro rfl rfl (by decide) (by decide) fun _ => Nat.le_of_ble_eq_true rfl

theorem parseInt (base : Byte) (width : IntWidth) (chars : List Byte) : Statement (.parseInt base width chars) :=
  micro rfl rfl (by decide) (by decide) fun h => by
    have := (fitsHalf_iff chars).1 h; simp [halfBytes]; omega

theorem parseIp (chars : List Byte) : Statement (.parseIp chars) :=
  micro rfl rfl (by decide) (by decide) fun h => by
    have := (fitsHalf_iff chars).1 h; simp [length_dataBytes]; omega

theorem formatFields (form : FormatArg) : Statement (.formatFields form) :=
  micro rfl rfl (by decide) (by decide) fun _ => Nat.lt_of_le_of_lt (length_formOperand_le form) (by decide)

theorem writeFrame (cid : Cid) (addr : Option NetAddr) (data : List Byte) : Statement (.writeFrame cid addr data) :=
  micro rfl rfl (by decide) (by decide) fun h => by
    have := (fitsHalf_iff data).1 h; have := length_addrOperand_le addr; simp [length_dataBytes]; omega

theorem waitDataResp : Statement (.waitDataResp) :=
  micro rfl rfl (by decide) (by decide) fun _ => Nat.le_of_ble_eq_true rfl

end Encoding

end Sys2Proof.Laws
end

