-- ==== Sys2Proof/Tests/Slice0.lean ====
section
/-! SUPPORT. The model's own tests: ill-formed operations, words written out from the encoding tables, one or two vectors
of 95_test_vectors.md per operation, and a state and operands that meet the hypotheses of each statement. -/

namespace Sys2Proof.Machine

/-! ## Small states -/

/-- After START STREAM and START_DONE 1. -/
def up : State := { State.reset with lifecycle := .running }

/-- After START BUS and START_DONE 1. -/
def upBus : State := { up with linkMode := .bus }

/-- The link answers these bytes, then none twice; the timer expires at once (95 section 0). -/
def State.hearing (s : State) (bytes : List Byte) : State :=
  { s with env := { s.env with linkReads := bytes.map some ++ [none, none], expired := [true] } }

/-- The bus answers these values and has them ready. -/
def State.onBus (s : State) (values : List Byte) : State :=
  { s with env := { s.env with exchanges := values, dataReady := values.map fun _ => true, expired := [true] } }

/-- What an operation answers. -/
def answer (i : Instr) (s : State) : Option Response := (after i s).result

/-- The bytes the block has put on the link, oldest first. -/
def State.sent (s : State) : List Byte :=
  s.trace.reverse.filterMap fun e => match e with
    | .write b => some b
    | .exchange b _ => some b
    | _ => none

/-- CID 2 is connected. -/
def conn2 : State := after (.connSet 2 ⟨10, 0, 0, 9⟩ 80 4000 0) up

/-- A frame of CID 2 with the payload 'q', 'r' is buffered. -/
def frame2 : State := feed [0x1B, 0x5A, 0x32, 0x30, 0x30, 0x30, 0x32, 0x71, 0x72] up

/-- The same, with its header popped: it is the tail frame. -/
def tail2 : State := after .advance frame2

/-- A frame of CID 2 of two bytes is announced, its header popped, and no payload has come. -/
def announced2 : State := after .advance (feed [0x1B, 0x5A, 0x32, 0x30, 0x30, 0x30, 0x32] up)

/-! ## WellFormed refuses each ill-formed operation -/

theorem fitsHalf_long : fitsHalf (List.replicate 65536 0) = false := by
  unfold fitsHalf
  rw [List.length_replicate]
  rfl

theorem test_illFormed_write : (Instr.write 0 (List.replicate 65536 0)).wellFormed = false := fitsHalf_long
theorem test_illFormed_writeTo : (Instr.writeTo 0 ⟨1, 2, 3, 4⟩ 5 (List.replicate 65536 0)).wellFormed = false :=
  fitsHalf_long
theorem test_illFormed_sendCommand : (Instr.sendCommand (List.replicate 65536 0)).wellFormed = false := fitsHalf_long
theorem test_illFormed_sendCommandExpectOk :
    (Instr.sendCommandExpectOk (List.replicate 65536 0)).wellFormed = false := fitsHalf_long
theorem test_illFormed_classifyLine : (Instr.classifyLine (List.replicate 65536 0)).wellFormed = false := fitsHalf_long
theorem test_illFormed_asyncDispatch : (Instr.asyncDispatch 0 (List.replicate 65536 0)).wellFormed = false :=
  fitsHalf_long
theorem test_illFormed_parseInt : (Instr.parseInt 10 .w8 (List.replicate 65536 0)).wellFormed = false := fitsHalf_long
theorem test_illFormed_parseIp : (Instr.parseIp (List.replicate 65536 0)).wellFormed = false := fitsHalf_long
theorem test_illFormed_writeFrame : (Instr.writeFrame 0 none (List.replicate 65536 0)).wellFormed = false :=
  fitsHalf_long

/-! ## Words written out from 30 R117 to R121 -/

/-- Lifecycle, service and status (30 R119). -/
theorem test_decode_lifecycle :
    decode .host [0x01, 0x01] = .ok (.start 1) ∧ decode .host [0x02, 0x01] = .ok (.startDone 1)
      ∧ decode .host [0x03] = .ok .stop ∧ decode .host [0x04] = .ok .service
      ∧ decode .host [0x05] = .ok .poll ∧ decode .host [0x06] = .ok .status := ⟨rfl, rfl, rfl, rfl, rfl, rfl⟩

/-- Read side: `n` is a u16, least significant byte first. -/
theorem test_decode_read_side :
    decode .host [0x10, 0x0F] = .ok (.peek 15) ∧ decode .host [0x11, 0x02] = .ok (.read 2)
      ∧ decode .host [0x12] = .ok .readAny ∧ decode .host [0x13, 0x00, 0x20, 0x01] = .ok (.readBuf 0 0x0120)
      ∧ decode .host [0x14] = .ok .firstCid ∧ decode .host [0x15, 0x01] = .ok (.available 1)
      ∧ decode .host [0x16] = .ok .availableAny := ⟨rfl, rfl, rfl, rfl, rfl, rfl, rfl⟩

/-- Write side (95 V46.1, V46.2): the data follows its length. -/
theorem test_decode_write_side :
    decode .host [0x18, 0x00, 0x02, 0x00, 0x68, 0x69] = .ok (.write 0 [0x68, 0x69])
      ∧ decode .host [0x19, 0x03, 0x0A, 0x00, 0x00, 0x07, 0x88, 0x13, 0x01, 0x00, 0x61] =
        .ok (.writeTo 3 ⟨10, 0, 0, 7⟩ 5000 [0x61]) := ⟨rfl, rfl⟩

/-- Commands (95 P2). -/
theorem test_decode_commands :
    decode .host [0x20, 0x02, 0x00, 0x41, 0x54] = .ok (.sendCommand [0x41, 0x54])
      ∧ decode .host [0x21, 0x00, 0x08, 0x00] = .ok (.readResponse 0 8)
      ∧ decode .host [0x22, 0x01, 0x00, 0x41] = .ok (.sendCommandExpectOk [0x41]) := ⟨rfl, rfl, rfl⟩

/-- Connection and association state (95 V44.16, V44.17). -/
theorem test_decode_connections :
    decode .host [0x28, 0x02] = .ok (.connQuery 2)
      ∧ decode .host [0x29, 0x02, 0x0A, 0x00, 0x00, 0x09, 0x50, 0x00, 0xA0, 0x0F, 0x00] =
        .ok (.connSet 2 ⟨10, 0, 0, 9⟩ 80 4000 0)
      ∧ decode .host [0x2A] = .ok .assocQuery ∧ decode .host [0x2B] = .ok .assocSet := ⟨rfl, rfl, rfl, rfl⟩

/-- Micro-operations: the code of 30 R120, the operands as log 8 lays them out. -/
theorem test_decode_micro_codec_and_ring :
    decode .micro [0x80, 0xFB] = .ok (.codecSend 0xFB) ∧ decode .micro [0x81] = .ok .codecRecv
      ∧ decode .micro [0x82, 0x41] = .ok (.rxProcess 0x41)
      ∧ decode .micro [0x83, 3, 3, 0, 1, 10, 0, 0, 7, 0x88, 0x13] =
        .ok (.pushHeader ⟨3, 3, true, ⟨10, 0, 0, 7⟩, 5000⟩)
      ∧ decode .micro [0x84, 0x7A] = .ok (.pushByte 0x7A) ∧ decode .micro [0x85] = .ok .popHeader
      ∧ decode .micro [0x86] = .ok .peekByte ∧ decode .micro [0x87] = .ok .popByte
      ∧ decode .micro [0x88] = .ok .availableBytes ∧ decode .micro [0x89, 17] = .ok (.dropOldest 17)
      ∧ decode .micro [0x8A] = .ok .advance := ⟨rfl, rfl, rfl, rfl, rfl, rfl, rfl, rfl, rfl, rfl, rfl⟩

theorem test_decode_micro_events :
    decode .micro [0x8B, 1, 0, 0x30] = .ok (.classifyLine [0x30]) ∧ decode .micro [0x8C, 0x0D] = .ok (.respStep 0x0D)
      ∧ decode .micro [0x8D, 7, 2, 0, 0x31, 0x30] = .ok (.asyncDispatch 7 [0x31, 0x30])
      ∧ decode .micro [0x8E, 2, 10, 0, 0, 9, 80, 0, 0xA0, 0x0F, 1] =
        .ok (.connConnect 2 ⟨10, 0, 0, 9⟩ 80 4000 true)
      ∧ decode .micro [0x8F, 15] = .ok (.connDisconnect 15) ∧ decode .micro [0x90, 5] = .ok (.connFail 5)
      ∧ decode .micro [0x91] = .ok .disassocCascade ∧ decode .micro [0x92] = .ok .assocUpdate
      ∧ decode .micro [0x93, 1] = .ok (.ncmConnect 1) ∧ decode .micro [0x94] = .ok .takeEvents :=
  ⟨rfl, rfl, rfl, rfl, rfl, rfl, rfl, rfl, rfl, rfl⟩

theorem test_decode_micro_parsers_and_frames :
    decode .micro [0x95, 2, 0, 16, 1, 0x46, 0x66] = .ok (.parseInt 16 .w16 [0x46, 0x66])
      ∧ decode .micro [0x96, 1, 0, 0x31] = .ok (.parseIp [0x31])
      ∧ decode .micro [0x97, 6, 3, 10, 0, 0, 7, 0x88, 0x13, 1, 0] =
        .ok (.formatFields (.txAddr 3 ⟨10, 0, 0, 7⟩ 5000 1))
      ∧ decode .micro [0x98, 1, 1, 10, 0, 0, 7, 0x88, 0x13, 1, 0, 0x61] =
        .ok (.writeFrame 1 (some ⟨⟨10, 0, 0, 7⟩, 5000⟩) [0x61])
      ∧ decode .micro [0x98, 1, 0, 0, 0] = .ok (.writeFrame 1 none [])
      ∧ decode .micro [0x99] = .ok .waitDataResp := ⟨rfl, rfl, rfl, rfl, rfl, rfl⟩

/-- The other forms of FORMAT_FIELDS (45 R395, log 8). -/
theorem test_decode_forms :
    decode .micro [0x97, 0, 11] = .ok (.formatFields (.hexU 11))
      ∧ decode .micro [0x97, 1, 5, 0] = .ok (.formatFields (.dec4 5))
      ∧ decode .micro [0x97, 2, 0x88, 0x13] = .ok (.formatFields (.decN 5000))
      ∧ decode .micro [0x97, 3, 10, 0, 0, 7] = .ok (.formatFields (.dotted ⟨10, 0, 0, 7⟩))
      ∧ decode .micro [0x97, 4, 0, 5, 0, 0, 0, 0, 0, 0, 0, 0] =
        .ok (.formatFields (.rxHeader ⟨0, 5, false, ⟨0, 0, 0, 0⟩, 0⟩))
      ∧ decode .micro [0x97, 5, 1, 0x78, 0x05] = .ok (.formatFields (.txHeader 1 1400)) := ⟨rfl, rfl, rfl, rfl, rfl, rfl⟩

/-- What the decoder rejects, by name (30 R119, R120; log 9). -/
theorem test_decode_rejects :
    decode .host [0x07] = .error .illegalOpcode ∧ decode .host [0x80] = .error .illegalOpcode
      ∧ decode .micro [0x9A] = .error .illegalOpcode ∧ decode .host [] = .error .emptyWord
      ∧ decode .host [0x18, 0, 2, 0, 0x68] = .error .truncated ∧ decode .host [0x03, 0] = .error .trailing
      ∧ decode .micro [0x8F, 16] = .error .badMicroOperand := ⟨rfl, rfl, rfl, rfl, rfl, rfl, rfl⟩

/-- Every word of spec/opcode_table.json, with zeros after its 8 bits, decodes. -/
theorem test_table_words_decode :
    ∀ w ∈ [0x01, 0x02, 0x03, 0x04, 0x05, 0x06, 0x10, 0x11, 0x12, 0x13, 0x14, 0x15, 0x16, 0x18, 0x19, 0x20, 0x21, 0x22,
      0x28, 0x29, 0x2A, 0x2B, 0x80, 0x81, 0x82, 0x83, 0x84, 0x85, 0x86, 0x87, 0x88, 0x89, 0x8A, 0x8B, 0x8C, 0x8D, 0x8E,
      0x8F, 0x90, 0x91, 0x92, 0x93, 0x94, 0x95, 0x96, 0x97, 0x98, 0x99], (decodeTableWord 8 w).isSome = true := by
  decide

/-- A word placed by withFetchWord is the next operation (log 7): on the host port and on the micro port. -/
theorem test_withFetchWord_host : step (State.reset.withFetchWord 8 0x10) = exec (.peek 0) State.reset := rfl
theorem test_withFetchWord_micro : step (State.reset.withFetchWord 8 0x99) = exec .waitDataResp State.reset := rfl

/-! ## Lifecycle, gate and STATUS (95 sections 8 and 9) -/

/-- 95 V46.13 -/
theorem test_start :
    answer (.start 2) State.reset = some (.record [0x03]) ∧ answer (.start 0) State.reset = some (.record [0x00]) := by
  decide
theorem test_start_twice : answer (.start 0) (after (.start 0) State.reset) = some (.record [0x09]) := by decide
theorem test_startDone :
    answer (.startDone 1) State.reset = some (.record [0x01])
      ∧ (after (.startDone 1) (after (.start 1) State.reset)).lifecycle = .running := by decide
/-- 95 V60.6; and a RUNNING block, live and dead (90 C4, 60 R486). -/
theorem test_startDone_fails :
    (after (.startDone 0) (after (.start 0) State.reset)).lifecycle = .stopped
      ∧ answer (.startDone 1) up = some (.record [0x09])
      ∧ answer (.startDone 1) { up with unrecoverable := true, fatalCause := .responseTimeout } =
        some (.record [0x02]) := by decide
/-- 95 V60.3: the link mode is kept. -/
theorem test_stop : (after .stop upBus).linkMode = .bus ∧ (after .stop upBus).lifecycle = .stopped := by decide
/-- 95 V60.3: a dead BUS block in STARTING. -/
theorem test_status :
    answer .status { upBus with lifecycle := .starting, unrecoverable := true, fatalCause := .busErrorStorm } =
      some (.record [0x00, 0x3D, 0x00]) := by decide
/-- 95 V46.12 -/
theorem test_gate_stopped : answer (.read 0) State.reset = some (.record [0x01]) := by decide
/-- 95 V60.4 -/
theorem test_gate_dead :
    answer .poll { up with unrecoverable := true } = some (.record [0x02]) := by decide
/-- 95 V46.14: host words 07 and 80. -/
theorem test_illegal_opcode :
    (match step { up with port := [⟨.host, [0x07]⟩] } with | .next t => t.result | _ => none) = some (.record [0x0A])
      ∧ (match step { up with port := [⟨.host, [0x80]⟩] } with | .next t => t.result | _ => none) =
        some (.record [0x0A]) := by decide

/-! ## The bus codec (95 section 2) -/

/-- 95 V40.1, V40.7, V40.8: reserved values are escaped, others are not. -/
theorem test_codecSend_escapes :
    (after (.codecSend 0x00) (upBus.onBus [0xF5, 0xF5])).sent = [0xFB, 0x20]
      ∧ (after (.codecSend 0xFF) (upBus.onBus [0xF5, 0xF5])).sent = [0xFB, 0xDF]
      ∧ (after (.codecSend 0x41) (upBus.onBus [0xF5])).sent = [0x41] := by decide
/-- 95 V40.14: a paused block exchanges BUS_IDLE until XON. -/
theorem test_codecSend_paused :
    (after (.codecSend 0x41) ({ upBus with paused := true }.onBus [0xF5, 0xFD, 0xF5])).sent = [0xF5, 0xF5, 0x41] := by
  decide
/-- 95 V40.9: the FF after FB is data. -/
theorem test_codecRecv_escape :
    answer .codecRecv (upBus.onBus [0xFB, 0xFF]) = some (.byte none)
      ∧ answer .codecRecv (after .codecRecv (upBus.onBus [0xFB, 0xFF])) = some (.byte (some 0xDF)) := by decide
/-- 95 V40.11: the 20th ALL-ONES marker. -/
theorem test_codecRecv_storm :
    (after .codecRecv ({ upBus with allOnesRun := 19 }.onBus [0xFF])).fatalCause = .busErrorStorm := by decide

/-! ## The receive path (95 section 3) -/

/-- 95 V41.1 -/
theorem test_rxProcess_bulk :
    let t := feed [0x1B, 0x5A, 0x30, 0x30, 0x30, 0x30, 0x35, 0x68, 0x65, 0x6C, 0x6C, 0x6F] up
    t.rxState = .idle ∧ t.ring.readN 0 8 = [0x00, 0x05, 0x00, 0x68, 0x65, 0x6C, 0x6C, 0x6F] ∧ t.headIdx = 8
      ∧ t.log = [] := by decide
/-- 95 V41.2 -/
theorem test_rxProcess_udp :
    let t := feed [0x1B, 0x79, 0x33, 0x31, 0x30, 0x2E, 0x30, 0x2E, 0x30, 0x2E, 0x37, 0x20, 0x35, 0x30, 0x30, 0x30, 0x09,
      0x30, 0x30, 0x30, 0x33, 0x61, 0x62, 0x63] up
    t.ring.readN 0 12 = [0x83, 0x03, 0x00, 0x0A, 0x00, 0x00, 0x07, 0x88, 0x13, 0x61, 0x62, 0x63]
      ∧ answer .popHeader t = some (.header ⟨3, 3, true, ⟨10, 0, 0, 7⟩, 5000⟩) := by decide
/-- 95 V46.10 -/
theorem test_poll : answer .poll (up.hearing [0x41]) = some (.record [0x00])
    ∧ answer .poll (up.hearing []) = some (.record [0x0B]) := by decide

/-! ## The ring (95 section 4) -/

/-- 95 V42.1: the jump over cells too few for a record. -/
theorem test_pushHeader :
    let t := after (.pushHeader ⟨1, 2, false, ⟨0, 0, 0, 0⟩, 0⟩) { up with headIdx := 26, tailIdx := 26 }
    t.ring.readN 0 3 = [0x01, 0x02, 0x00] ∧ t.headIdx = 3 ∧ t.used = 9 := by decide
/-- 95 V42.3: 9 cells are left, and the cursor wraps. -/
theorem test_pushHeader_fits :
    let t := after (.pushHeader ⟨1, 2, true, ⟨10, 0, 0, 7⟩, 5000⟩) { up with headIdx := 23, tailIdx := 23 }
    t.ring.readN 23 9 = [0x81, 0x02, 0x00, 10, 0, 0, 7, 0x88, 0x13] ∧ t.headIdx = 0 ∧ t.used = 9 := by decide
/-- 42 R246: the cursor wraps at C = 32. -/
theorem test_pushByte :
    let t := after (.pushByte 0x7A) { up with headIdx := 31, tailIdx := 31 }
    t.ring.read 31 = 0x7A ∧ t.headIdx = 0 := by decide
/-- 95 V42.2: the reader makes the same jump. -/
theorem test_popHeader :
    let t := after .popHeader (after (.pushHeader ⟨1, 2, false, ⟨0, 0, 0, 0⟩, 0⟩) { up with headIdx := 26, tailIdx := 26 })
    t.tail = ⟨1, 2, false, ⟨0, 0, 0, 0⟩, 0⟩ ∧ t.tailIdx = 3 := by decide
theorem test_peekByte : answer .peekByte tail2 = some (.byte (some 0x71))
    ∧ answer .peekByte frame2 = some (.byte none) := by decide
theorem test_popByte : answer .popByte tail2 = some (.byte (some 0x71))
    ∧ (after .popByte tail2).tail.length = 1 := by decide
theorem test_availableBytes : answer .availableBytes tail2 = some (.count 2) := by decide
/-- 95 V42.6 and V42.7: first the exhausted record goes, then a payload byte, which latches `error`. -/
theorem test_dropOldest :
    let full : State := { tail2 with headIdx := 2 }
    (after (.dropOldest 1) full).tailIdx = 4 ∧ ((after (.dropOldest 1) full).connAt 2).error = true
      ∧ (after (.dropOldest 1) full).log = [.ringDrop] := by decide
/-- 95 V42.9: a frame of length 0 is passed over. -/
theorem test_advance :
    (after .advance (feed [0x1B, 0x5A, 0x34, 0x30, 0x30, 0x30, 0x30, 0x1B, 0x5A, 0x35, 0x30, 0x30, 0x30, 0x32, 0x78,
      0x79] up)).tail = ⟨5, 2, false, ⟨0, 0, 0, 0⟩, 0⟩ := by decide

/-! ## The correlator (95 section 5) -/

/-- 95 V43.6, V43.7 -/
theorem test_classifyLine :
    answer (.classifyLine [0x31, 0x38, 0x20, 0x61]) up = some (.classified (.code 18 .nwconnSuccess [10]))
      ∧ answer (.classifyLine [0x33, 0x20, 0x46]) up = some (.classified (.code 3 .sockFail [15])) := by decide
/-- 95 V43.9, V43.10 -/
theorem test_classifyLine_unknown :
    ∀ l ∈ ([[0x30, 0x30], [0x30, 0x31, 0x39], [0x30, 0x20], [0x31, 0x39], [0x31, 0x38], [0x31, 0x38, 0x20, 0x31, 0x32],
      [0x33, 0x20, 0x47]] : List (List Byte)), answer (.classifyLine l) up = some (.classified .unknown) := by decide
/-- 43 R304: a code line ends the read; RAW mode keeps an unknown line with CR LF. -/
theorem test_respStep :
    let raw : State := { up with line := LineState.fresh .raw 5 }
    answer (.respStep 0x0D) (after (.respStep 0x31) raw) = some (.lineStep (.done 1 .failure []))
      ∧ (after (.respStep 0x0D) (after (.respStep 0x78) raw)).line.buf = [0x78, 0x0D, 0x0A] := by decide
/-- 95 V43.11: the example of 43 R303. -/
theorem test_readResponse_raw :
    answer (.readResponse 0 16) (up.hearing [0x68, 0x69, 0x0D, 0x0A, 0x30, 0x0D, 0x0A]) =
      some (.record [0x00, 0x00, 0x00, 0x00, 0x04, 0x00, 0x68, 0x69, 0x0D, 0x0A, 0x00, 0x00]) := by decide
/-- 95 V43.19 -/
theorem test_readResponse_callback :
    answer (.readResponse 2 0) (up.hearing [0x78, 0x0D, 0x0A, 0x79, 0x0A, 0x31, 0x0D, 0x0A]) =
      some (.record [0x00, 0x01, 0x00, 0x00, 0x00, 0x00, 0x02, 0x00, 0x01, 0x00, 0x78, 0x01, 0x00, 0x79]) := by decide
/-- 95 V43.25 -/
theorem test_sendCommand : (after (.sendCommand [0x41, 0x54]) up).sent = [0x41, 0x54, 0x0D, 0x0A]
    ∧ answer (.sendCommand [0x41, 0x54]) up = some (.record [0x00]) := by decide
/-- 95 V43.23: an echo, then the code. -/
theorem test_sendCommandExpectOk :
    answer (.sendCommandExpectOk [0x41, 0x54, 0x45, 0x30])
      (up.hearing [0x41, 0x54, 0x45, 0x30, 0x0D, 0x0A, 0x30, 0x0D, 0x0A]) = some (.record [0x00, 0x01]) := by decide
/-- 95 V43.24 -/
theorem test_sendCommandExpectOk_fails :
    answer (.sendCommandExpectOk [0x41]) (up.hearing [0x32, 0x0D, 0x0A]) = some (.record [0x00, 0x00]) := by decide

/-! ## Events, connections and the association (95 section 6) -/

/-- 95 V44.7: ECIDCLOSE with a trailing CR LF. -/
theorem test_asyncDispatch :
    answer (.asyncDispatch 5 [0x38, 0x20, 0x32, 0x0D, 0x0A]) conn2 = some (.dispatched true)
      ∧ ((after (.asyncDispatch 5 [0x38, 0x20, 0x32, 0x0D, 0x0A]) conn2).connAt 2).connected = false := by decide
/-- 95 V44.3: the subtype does not match. -/
theorem test_asyncDispatch_subtype : answer (.asyncDispatch 5 [0x37, 0x20, 0x33]) up = some (.dispatched false) := by
  decide
theorem test_connConnect :
    (after (.connConnect 15 ⟨1, 2, 3, 4⟩ 5 6 true) up).connAt 15 = ⟨true, false, ⟨1, 2, 3, 4⟩, 5, 6, true⟩ := by decide
theorem test_connDisconnect :
    (after (.connDisconnect 2) conn2).connAt 2 = ⟨false, false, ⟨10, 0, 0, 9⟩, 80, 4000, false⟩ := by decide
/-- 95 V44.6: `error` is set even when the CID was not connected. -/
theorem test_connFail : ((after (.connFail 5) up).connAt 5).error = true := by decide
/-- 95 V44.1 -/
theorem test_disassocCascade :
    let t := after .disassocCascade (after (.ncmConnect 4) conn2)
    (t.connAt 4).error = true ∧ (t.connAt 2).connected = false ∧ t.ncmValid = false ∧ t.associated = false := by decide
/-- 95 V44.19 -/
theorem test_assocUpdate : (after .assocUpdate up).assocPending = .associated := by decide
/-- 95 V44.4 -/
theorem test_ncmConnect_takeEvents : answer .takeEvents (after (.ncmConnect 1) up) = some (.events 0x0C 1) := by decide
/-- 95 V44.12: the disconnect cancels the pending connect. -/
theorem test_takeEvents_cancelled :
    answer .takeEvents (after (.connDisconnect 1) (after (.ncmConnect 1) up)) = some (.events 0x04 1) := by decide
/-- 95 V44.16, V44.17 -/
theorem test_connSet_connQuery :
    answer (.connQuery 2) conn2 = some (.record [0x00, 0x01, 0x00, 0x0A, 0x00, 0x00, 0x09, 0x50, 0x00, 0xA0, 0x0F,
      0x00]) := by decide
/-- 95 V44.19 -/
theorem test_assocSet_assocQuery :
    answer .assocQuery (after .assocSet up) = some (.record [0x00, 0x01, 0x01, 0x00, 0x00, 0x00]) := by decide

/-! ## Parsers and formatters (95 section 7) -/

/-- 95 V45.5, V45.2 -/
theorem test_parseInt :
    answer (.parseInt 10 .w16 [0x36, 0x35, 0x35, 0x33, 0x35]) up = some (.number (some 65535))
      ∧ answer (.parseInt 10 .w16 [0x36, 0x35, 0x35, 0x33, 0x36]) up = some (.number none)
      ∧ answer (.parseInt 16 .w8 [0x66]) up = some (.number (some 15)) := by decide
/-- 95 V45.10 -/
theorem test_parseInt_binary :
    answer (.parseInt 2 .w8 (List.replicate 8 0x31)) up = some (.number (some 255))
      ∧ answer (.parseInt 2 .w8 (List.replicate 9 0x31)) up = some (.number none)
      ∧ answer (.parseInt 2 .w8 [0x32]) up = some (.number none) := by decide
/-- 95 V45.13 -/
theorem test_parseIp :
    answer (.parseIp [0x31, 0x39, 0x32, 0x2E, 0x31, 0x36, 0x38, 0x2E, 0x31]) up =
      some (.address (some ⟨3, ⟨192, 168, 1, 0⟩⟩)) := by decide
/-- 95 V45.16: "1.2." and "256". -/
theorem test_parseIp_fails :
    answer (.parseIp [0x31, 0x2E, 0x32, 0x2E]) up = some (.address none)
      ∧ answer (.parseIp [0x32, 0x35, 0x36]) up = some (.address none) := by decide
/-- 95 V45.18, V45.19 -/
theorem test_formatFields :
    answer (.formatFields (.dec4 1400)) up = some (.text [0x31, 0x34, 0x30, 0x30])
      ∧ answer (.formatFields (.decN 0)) up = some (.text [0x30])
      ∧ answer (.formatFields (.hexU 11)) up = some (.text [0x42]) := by decide
/-- 95 V45.22 -/
theorem test_formatFields_txAddr :
    answer (.formatFields (.txAddr 3 ⟨10, 0, 0, 7⟩ 5000 1)) up =
      some (.text [0x1B, 0x59, 0x33, 0x31, 0x30, 0x2E, 0x30, 0x2E, 0x30, 0x2E, 0x37, 0x3A, 0x35, 0x30, 0x30, 0x30, 0x3A,
        0x30, 0x30, 0x30, 0x31]) := by decide

/-! ## Host operations (95 section 8) -/

theorem test_peek : answer (.peek 2) frame2 = some (.record [0x00, 0x71])
    ∧ answer (.peek 3) frame2 = some (.record [0x05]) := by decide
/-- 95 V46.15 -/
theorem test_peek_badOperand : answer (.peek 0x10) up = some (.record [0x03]) := by decide
/-- 95 V46.11 -/
theorem test_read :
    answer (.read 2) frame2 = some (.record [0x00, 0x71])
      ∧ answer (.read 2) (up.hearing []) = some (.record [0x06]) := by decide
theorem test_readAny : answer .readAny frame2 = some (.record [0x00, 0x02, 0x71]) := by decide
theorem test_readBuf : answer (.readBuf 2 100) frame2 = some (.record [0x00, 0x02, 0x00, 0x71, 0x72]) := by decide
theorem test_firstCid : answer .firstCid frame2 = some (.record [0x00, 0x02]) := by decide
/-- 95 V42.10: a frame announced with no payload yet. -/
theorem test_available :
    answer (.available 2) ((feed [0x1B, 0x5A, 0x32, 0x30, 0x30, 0x30, 0x32] up).hearing []) =
      some (.record [0x00, 0x00, 0x00]) ∧ answer (.available 2) frame2 = some (.record [0x00, 0x02, 0x00]) := by decide
theorem test_availableAny : answer .availableAny frame2 = some (.record [0x00, 0x02, 0x00]) := by decide
/-- 95 V46.8 -/
theorem test_service :
    answer .service ({ up with associated := true }.hearing [0x1B, 0x41, 0x37, 0x30, 0x32, 0x31, 0x30]) =
      some (.record [0x00, 0x02, 0x00]) := by decide
/-- 95 V46.1 -/
theorem test_write :
    let t := after (.write 2 [0x68, 0x69]) (conn2.hearing [0x1B, 0x4F])
    t.result = some (.record [0x00, 0x01, 0x00]) ∧ t.sent = [0x1B, 0x5A, 0x32, 0x30, 0x30, 0x30, 0x32, 0x68, 0x69]
      ∧ t.dataWait = false := by decide
/-- 95 V46.6 -/
theorem test_write_notConnected : answer (.write 1 [0x7A]) up = some (.record [0x04])
    ∧ answer (.write 1 []) up = some (.record [0x00, 0x00, 0x00]) := by decide
/-- 95 V46.2 -/
theorem test_writeTo :
    (after (.writeTo 2 ⟨10, 0, 0, 7⟩ 5000 [0x61]) (conn2.hearing [0x1B, 0x4F])).sent =
      [0x1B, 0x59, 0x32, 0x31, 0x30, 0x2E, 0x30, 0x2E, 0x30, 0x2E, 0x37, 0x3A, 0x35, 0x30, 0x30, 0x30, 0x3A, 0x30, 0x30,
        0x30, 0x31, 0x61] := by decide
/-- 46 R442, R444: the module refuses the frame. -/
theorem test_writeFrame :
    answer (.writeFrame 2 none [0x61]) (up.hearing [0x1B, 0x46]) = some (.code .errDataRejected) := by decide
/-- 46 R443: the timeout. -/
theorem test_waitDataResp :
    (after .waitDataResp (up.hearing [])).fatalCause = .dataResponseTimeout := by decide

/-! ## The hypotheses of the statements can be met

One theorem for each statement of Certificates/Slice0/Obligations.lean that has hypotheses: a concrete state and operands
that meet them, for each clause at the ends of its ranges. -/

theorem up_inv : up.Inv := by constructor <;> decide
theorem upBus_inv : upBus.Inv := by constructor <;> decide
theorem frame2_inv : frame2.Inv := by constructor <;> decide
theorem tail2_inv : tail2.Inv := by constructor <;> decide

theorem up_alive : up.alive := ⟨by decide, rfl⟩

/-- One whole record of 3 cells with 2 payload bytes is buffered. -/
theorem frame2_ringOk : frame2.RingOk := by
  refine .inl ⟨by decide, ?_⟩
  change Records frame2.cfg frame2.ring 0 0 5
  exact .whole 0 5 ⟨2, 2, false, ⟨0, 0, 0, 0⟩, 0⟩ (by decide) (by decide) (.none 5 rfl)

/-- The ring is full: the record of a frame of CID 2 and its 28 bytes of payload. -/
def full32 : State :=
  { up with ring := (0, 2) :: (1, 28) :: (List.range 28).map (fun k => (k + 3, 0x61)), headIdx := 31 }

theorem full32_inv : full32.Inv := by constructor <;> decide

theorem full32_ringOk : full32.RingOk := by
  refine .inl ⟨by decide, ?_⟩
  change Records full32.cfg full32.ring 0 0 31
  exact .whole 0 31 ⟨2, 28, false, ⟨0, 0, 0, 0⟩, 0⟩ (by decide) (by decide) (.none 31 rfl)

theorem full32_popped_ringOk : (after .popHeader full32).RingOk := by
  refine .inl ⟨by decide, ?_⟩
  change Records full32.cfg full32.ring 0 31 0
  exact .none 31 rfl

/-- A dead block. -/
def dead : State := { up with unrecoverable := true, fatalCause := .responseTimeout }

theorem wit_DecodeOfEncode :
    (Instr.write 0xFF (List.replicate 65535 0)).wellFormed = true ∧ (Instr.pushHeader FrameHeader.zero).wellFormed = true := by
  refine ⟨?_, rfl⟩
  change fitsHalf _ = true
  unfold fitsHalf
  rw [List.length_replicate]
  rfl

theorem wit_EncodeOfDecode : decode .host [0x13, 0xFF, 0xFF, 0xFF] = .ok (.readBuf 0xFF 0xFFFF)
    ∧ decode .micro [0x8F, 15] = .ok (.connDisconnect 15) := ⟨rfl, rfl⟩

theorem wit_StepRunsTheDecodedOperation :
    let s : State := { up with port := [⟨.host, [0x05]⟩, ⟨.host, [0x03]⟩] }
    s.cfg.valid = true ∧ s.registersOk = true ∧ s.activity = none ∧ s.port = ⟨.host, [0x05]⟩ :: [⟨.host, [0x03]⟩]
      ∧ decode .host [0x05] = .ok .poll := ⟨by decide, by decide, rfl, rfl, rfl⟩

theorem wit_OneWordAtATime :
    step { up with port := [⟨.host, [0x03]⟩] } = .next (after .stop up)
      ∧ step { up with activity := some (.send [] .codec), port := [⟨.host, [0x03]⟩] } =
        .next { up with port := [⟨.host, [0x03]⟩], result := some (.code .ok) } := ⟨rfl, rfl⟩

/-- The codes next to those of the table, at both ends. -/
theorem wit_IllegalOpcodeDoesNothing :
    ∀ op ∈ ([0x00, 0x07, 0x0F, 0x17, 0x1A, 0x1F, 0x23, 0x27, 0x2C, 0x80, 0x99, 0xFF] : List Byte),
      up.cfg.valid = true ∧ up.registersOk = true ∧ up.activity = none
      ∧ op ∉ ([0x01, 0x02, 0x03, 0x04, 0x05, 0x06, 0x10, 0x11, 0x12, 0x13, 0x14, 0x15, 0x16, 0x18, 0x19, 0x20, 0x21, 0x22,
        0x28, 0x29, 0x2A, 0x2B] : List Byte) := by decide

theorem wit_PowerOnState : Config.vector.valid = true := by decide

theorem wit_EveryStepKeepsTheInvariant :
    up.Inv ∧ step up = .next up ∧ State.Inv { frame2 with port := [⟨.host, [0x03]⟩] }
      ∧ step { frame2 with port := [⟨.host, [0x03]⟩] } = .next (after .stop frame2) :=
  ⟨up_inv, rfl, frame2_inv.port _, rfl⟩

theorem wit_HostStepsKeepTheRing :
    let s : State := { frame2 with port := [⟨.host, [0x12]⟩] }
    s.Inv ∧ s.RingOk ∧ (∀ r ∈ s.port, r.port = .host) ∧ step s = .next (after .readAny frame2) :=
  ⟨frame2_inv.port _, frame2_ringOk, by decide, rfl⟩

theorem wit_OnlyLifecycleOperationsChangeTheMode :
    exec .poll up = .next (after .poll up) ∧ (∀ m, Instr.poll ≠ .start m) ∧ (∀ k, Instr.poll ≠ .startDone k)
      ∧ Instr.poll ≠ .stop := ⟨rfl, by simp, by simp, by simp⟩

theorem wit_DeadUntilStopped :
    dead.unrecoverable = true ∧ dead.lifecycle ≠ .stopped ∧ Instr.start 0 ≠ .stop
      ∧ exec (.start 0) dead = .next (after (.start 0) dead) := ⟨rfl, by decide, by simp, rfl⟩

theorem wit_DeadBlockLeavesTheLinkAlone :
    dead.unrecoverable = true ∧ step { dead with activity := some (.response false) } =
      .next (State.resume { dead with activity := some (.response false) }) := ⟨rfl, rfl⟩

theorem wit_GateTurnsOperationsAway :
    (Instr.poll.gated = true ∧ State.reset.lifecycle = .stopped)
      ∧ (Instr.assocSet.gated = true ∧ dead.lifecycle ≠ .stopped ∧ dead.unrecoverable = true) := by decide

theorem wit_BadOperandsAreRefused :
    up.alive ∧ 15 < (16 : Byte).toNat ∧ 1 < (2 : Byte).toNat ∧ 2 < (3 : Byte).toNat
      ∧ (4 : Half).toNat < up.cfg.maxRespLen + 1 := ⟨up_alive, by decide, by decide, by decide, by decide⟩

theorem wit_StreamPassesBytesThrough :
    up.linkMode = .stream ∧ up.unrecoverable = false ∧ (up.hearing [0xFF]).env.linkReads = some 0xFF :: [none, none]
      ∧ (up.hearing []).env.linkReads = none :: [none] := ⟨rfl, rfl, rfl, rfl⟩

theorem wit_BusSendOnTheWire :
    upBus.cfg.valid = true ∧ upBus.linkMode = .bus ∧ upBus.unrecoverable = false ∧ upBus.paused = false
      ∧ (upBus.onBus [0xF5, 0xF5]).env.exchanges = List.replicate 2 upBus.cfg.busIdle ++ []
      ∧ (0xFB ∈ upBus.cfg.reserved ∧ (upBus.onBus [0xFA, 0xF5]).env.exchanges = upBus.cfg.busXoff :: 0xF5 :: [])
      ∧ ((upBus.onBus [0xFD, 0xF5]).env.exchanges =
          List.replicate 0 upBus.cfg.busIdle ++ upBus.cfg.busXon :: upBus.cfg.busIdle :: []
        ∧ (0x41 : Byte) ∉ upBus.cfg.reserved) := by decide

/-- Each value that a rule of 40 names, at CODEC_RECV. -/
theorem wit_BusReceiveByValue :
    upBus.cfg.valid = true ∧ upBus.linkMode = .bus ∧ upBus.unrecoverable = false
      ∧ (State.onBus { upBus with escPending := true } [0xFF]).env.exchanges = 0xFF :: []
      ∧ State.env { upBus with env := ⟨[], [], [false], [], 0⟩ } = ⟨[], [], false :: [], [], 0⟩
      ∧ ∀ r ∈ ([0xFF, 0xFB, 0xFA, 0xFD, 0xF5, 0xF3, 0x00, 0x41] : List Byte),
        upBus.escPending = false ∧ (upBus.onBus [r]).env.dataReady = true :: [] ∧ (upBus.onBus [r]).env.exchanges = [r] := by
  decide

theorem wit_EscapeRoundTrip :
    upBus.cfg.valid = true ∧ upBus.linkMode = .bus ∧ upBus.unrecoverable = false ∧ upBus.escPending = false
      ∧ ∀ b ∈ ([0x00, 0x41, 0xFF] : List Byte),
        (upBus.onBus ((if b ∈ upBus.cfg.reserved then [upBus.cfg.busEsc, b ^^^ upBus.cfg.busMask] else [b]) ++ [])).env.exchanges =
          (if b ∈ upBus.cfg.reserved then [upBus.cfg.busEsc, b ^^^ upBus.cfg.busMask] else [b]) ++ [] := by decide

/-- Twenty markers in a row; the twentieth, inside a poll with an empty ring; and while a reserved and an unreserved first
byte are sent. -/
theorem wit_TwentiethAllOnesKills :
    (
      let s := upBus.onBus (List.replicate 20 0xFF)
      s.linkMode = .bus ∧ s.unrecoverable = false ∧ s.escPending = false ∧ s.allOnesRun = 0
        ∧ s.env.exchanges = List.replicate 20 0xFF ++ [] ∧ s.env.dataReady = List.replicate 20 true ++ [])
      ∧ (
        let s := State.onBus { upBus with allOnesRun := 19 } [0xFF]
        s.cfg.valid = true ∧ s.lifecycle ≠ .stopped ∧ s.unrecoverable = false ∧ s.linkMode = .bus ∧ s.paused = false
          ∧ s.escPending = false ∧ s.allOnesRun = 19 ∧ s.env.exchanges = 0xFF :: [] ∧ s.env.dataReady = true :: []
          ∧ s.headIdx = s.tailIdx ∧ s.tail.length = 0)
      ∧ ((0x41 : Byte) = ([0x41] ++ [0x0D]).headD 0 ∧ (0x41 : Byte) ∉ upBus.cfg.reserved
        ∧ (0xFB : Byte) = ([0xFB] ++ [0x0D]).headD 0 ∧ (0xFB : Byte) ∈ upBus.cfg.reserved)
      ∧ (conn2.conn[(2 : Cid)].connected = true ∧ ([0x61] : List Byte) ≠ []
        ∧ (0x1B : Byte) = (frameBytes upBus.cfg 2 none (([0x61] : List Byte).take 1400)).headD 0) := by decide

theorem wit_ReceiveArmsWithoutAParser :
    up.rxState = .idle ∧ (feed [0x1B] up).rxState = .escape
      ∧ (feed [0x1B, 0x5A, 0x32, 0x30, 0x30, 0x30, 0x31] up).rxState = .bulk := by decide

/-- For each clause a byte and a state that meet it: a length that does not parse, a subtype and a length that do not, a
17th byte, a field ended too early and one with three groups, a 6th byte, an empty field and a port of 65536. -/
theorem wit_MalformedHeaderIsDropped :
    let z := feed [0x1B, 0x5A, 0x32, 0x30, 0x30, 0x30] up
    let a := feed [0x1B, 0x41, 0x47, 0x30] up
    let a' := feed [0x1B, 0x41, 0x37, 0x30] up
    let y1 := feed (0x1B :: 0x79 :: List.replicate 16 0x31) up
    let y1' := feed [0x1B, 0x79, 0x33, 0x31, 0x2E, 0x30, 0x2E, 0x30] up
    let y2 := feed [0x1B, 0x79, 0x33, 0x31, 0x2E, 0x30, 0x2E, 0x30, 0x2E, 0x37, 0x20, 0x36, 0x35, 0x35, 0x33, 0x36] up
    let y3 := feed [0x31, 0x30, 0x30]
      (feed [0x1B, 0x79, 0x33, 0x31, 0x2E, 0x30, 0x2E, 0x30, 0x2E, 0x37, 0x20, 0x35, 0x09] up)
    (z.scratch.wf = true ∧ z.rxState = .escapeZ ∧ z.scratchLen = 4
        ∧ parseInt ((List.range 3).map (fun k => z.scratch.read (1 + k)) ++ [0x1B]) 10 16 = none)
      ∧ (a.scratch.wf = true ∧ a.rxState = .escapeA ∧ a.scratchLen = 2 ∧ parseInt [a.scratch.read 0] 16 8 = none)
      ∧ (a'.rxState = .escapeA ∧ a'.scratchLen = 2 ∧ parseInt [a'.scratch.read 1, 0x3A] 10 8 = none)
      ∧ (y1.rxState = .escapeY1 ∧ y1.scratchLen = 16 ∧ (0x31 : Byte) ≠ 0x20)
      ∧ (y1'.rxState = .escapeY1
        ∧ parseIp ((List.range (y1'.scratchLen - 1)).map fun k => y1'.scratch.read (1 + k)) = some ⟨3, ⟨1, 0, 0, 0⟩⟩)
      ∧ ((feed [0x1B, 0x79] up).rxState = .escapeY1 ∧ (feed [0x1B, 0x79] up).scratchLen = 0)
      ∧ (y2.rxState = .escapeY2 ∧ y2.scratchLen = 5 ∧ (0x36 : Byte) ≠ 0x09
        ∧ parseInt ((List.range y2.scratchLen).map fun k => y2.scratch.read (0 + k)) 10 16 = none)
      ∧ (y3.scratch.wf = true ∧ y3.rxState = .escapeY3 ∧ y3.scratchLen = 3
        ∧ parseInt ((List.range 3).map (fun k => y3.scratch.read (0 + k)) ++ [0x20]) 10 16 = none) := by decide

theorem vector_lettersDiffer : lettersDiffer Config.vector := by
  unfold lettersDiffer
  decide

theorem wit_HeaderRoundTrip :
    up.Inv ∧ lettersDiffer up.cfg ∧ up.rxState = .idle
      ∧ (plainIsBare ⟨15, 1400, false, ⟨0, 0, 0, 0⟩, 0⟩ ∧ (1400 : Half).toNat ≤ 1400)
      ∧ (plainIsBare ⟨15, 0, true, ⟨255, 255, 255, 255⟩, 65535⟩ ∧ (0 : Half).toNat ≤ 1400) :=
  ⟨up_inv, vector_lettersDiffer, rfl, ⟨fun _ => ⟨rfl, rfl⟩, by decide⟩, ⟨by simp [plainIsBare], by decide⟩⟩

theorem wit_AsyncRecordIsDispatchedWhole :
    up.Inv ∧ lettersDiffer up.cfg ∧ up.rxState = .idle ∧ ([] : List Byte).length ≤ 99
      ∧ (List.replicate 99 (0x1B : Byte)).length ≤ 99 := ⟨up_inv, vector_lettersDiffer, rfl, by decide, by decide⟩

theorem wit_PushesWriteTheRing : State.Inv { up with headIdx := 24, tailIdx := 24 } ∧ frame2.Inv :=
  ⟨by constructor <;> decide, frame2_inv⟩

theorem wit_TailFrameBytes : tail2.Inv ∧ 0 < min tail2.tail.length.toNat tail2.used := ⟨tail2_inv, by decide⟩

/-- A full ring with one whole frame: DROP_OLDEST pops its record and then discards payload. -/
theorem wit_DropOldestMakesRoom :
    full32.Inv ∧ full32.RingOk ∧ (17 : Byte).toNat ≤ 17 ∧ full32.free < (17 : Byte).toNat ∧ 0 < full32.used
      ∧ full32.tail.length = 0 ∧ (after .popHeader full32).RingOk ∧ 0 < (after .popHeader full32).tail.length.toNat
      ∧ (after .popHeader full32).free < (17 : Byte).toNat :=
  ⟨full32_inv, full32_ringOk, by decide, by decide, by decide, by decide, full32_popped_ringOk, by decide, by decide⟩

theorem wit_AdvanceFindsTheNextFrame : frame2.Inv ∧ frame2.RingOk := ⟨frame2_inv, frame2_ringOk⟩

/-- A frame that just fits: the record's 3 cells and 28 payload bytes in a ring of 32. -/
theorem wit_FrameIsDeliveredAsSent :
    let h : FrameHeader := ⟨3, 28, false, ⟨0, 0, 0, 0⟩, 0⟩
    let data := List.replicate 28 (0x1B : Byte)
    up.Inv ∧ up.alive ∧ lettersDiffer up.cfg ∧ up.rxState = .idle ∧ up.ringEmpty ∧ plainIsBare h ∧ data ≠ []
      ∧ data.length = h.length.toNat ∧ h.length.toNat ≤ 9999
      ∧ deadCells up.cfg up.headIdx + headerSize h.udp + data.length ≤ up.cfg.ringCap - 1 :=
  ⟨up_inv, up_alive, vector_lettersDiffer, rfl, ⟨rfl, rfl⟩, fun _ => ⟨rfl, rfl⟩, by decide, by decide, by decide,
    by decide⟩

theorem wit_ClassifierExamples : up.cfg.respTable = respTableDefault := rfl

/-- The smallest and the largest code of the table, and a line of two arguments' worth of characters. -/
theorem wit_ClassifierAcceptsTheGrammar :
    up.cfg.valid = true ∧ ([0x30] : List Byte) ≠ [0x4F, 0x4B]
      ∧ classifyLine up.cfg [0x30] = .code 0 .success []
      ∧ classifyLine up.cfg [0x31, 0x38, 0x20, 0x66] = .code 18 .nwconnSuccess [15] := by decide

theorem wit_ReplyLinePolicy :
    ((0x0C : Byte) ≠ 0x0D ∧ (0x0C : Byte) ≠ 0x0A) ∧ ((0x0E : Byte) ≠ 0x0D ∧ (0x0E : Byte) ≠ 0x0A)
      ∧ State.Inv { up with line := LineState.fresh .raw 5 } ∧ ((0x0A : Byte) = 0x0D ∨ (0x0A : Byte) = 0x0A) :=
  ⟨by decide, by decide, up_inv.withLine _ (LineState.fresh_ok _ _ _ (by decide)), by decide⟩

/-- The longest code line in the smallest RAW buffer, ended by LF; the lines of the two side effects; an unknown line and an
empty one before the code line, in RAW mode; and an unknown line that overflows the smallest RAW buffer. -/
theorem wit_ReadResponseReadsTheReply :
    (
    let s := up.hearing [0x31, 0x38, 0x20, 0x31, 0x0A]
    s.cfg.valid = true ∧ s.alive ∧ s.linkMode = .stream ∧ s.rxState = .idle ∧ (0 : Byte).toNat ≤ 2
      ∧ s.cfg.maxRespLen + 1 ≤ (5 : Half).toNat ∧ isLineText s.cfg [0x31, 0x38, 0x20, 0x31] ∧ (0x0A : Byte) ≠ s.cfg.escChar
      ∧ classifyLine s.cfg [0x31, 0x38, 0x20, 0x31] = .code 18 .nwconnSuccess [1]
      ∧ s.env.linkReads = ([0x31, 0x38, 0x20, 0x31] ++ [0x0A] : List Byte).map some ++ [none, none]
      ∧ classifyLine s.cfg [0x39] = .code 9 .linkLost []
      ∧ classifyLine s.cfg [0x37, 0x20, 0x46] = .code 7 .conSuccess [15])
    ∧ (
      let earlier : List (List Byte × List Byte) := [([0x68, 0x69], [0x0D, 0x0A]), ([], [0x0A])]
      (∀ p ∈ earlier, isLineText up.cfg p.1 ∧ (p.1 = [] ∨ classifyLine up.cfg p.1 = .unknown)
        ∧ p.2 ≠ [] ∧ ∀ b ∈ p.2, (b = 0x0D ∨ b = 0x0A) ∧ b ≠ up.cfg.escChar)
      ∧ ([0x68, 0x69, 0x0D, 0x0A] ++ [0x30] : List Byte).length ≤ (5 : Half).toNat)
    ∧ (
      let fresh : State := { up with line := ⟨.raw, 5, [], 0, false, false, []⟩ }
      let bytes : List Byte := [0x68, 0x69, 0x6A, 0x6B, 0x0D, 0x30]
      (∀ k, k < bytes.length → (feedLine (bytes.take (k + 1)) fresh).result = some (.lineStep .more))
      ∧ (feedLine (bytes ++ [0x0D]) fresh).result = some (.lineStep (.done 0 .success []))
      ∧ (feedLine (bytes ++ [0x0D]) fresh).line.truncated = true) := by
  refine ⟨⟨by decide, ⟨by decide, rfl⟩, rfl, rfl, by decide, by decide, ?_, by decide, by decide, by decide, by decide,
    by decide⟩, ⟨?_, by decide⟩, by decide⟩
  · unfold isLineText
    decide
  · unfold isLineText
    decide

theorem wit_ResponseTimeoutKillsTheBlock :
    up.alive ∧ up.linkMode = .stream ∧ (up.hearing []).env.linkReads = none :: [none]
      ∧ (up.hearing []).env.expired = true :: [] ∧ Instr.service.gated = true := ⟨up_alive, rfl, rfl, rfl, rfl⟩

theorem wit_SendCommandWritesTheLine :
    (up.alive ∧ up.linkMode = .stream)
      ∧ (
        let s := upBus.onBus (List.replicate 4 0xF5)
        s.cfg.valid = true ∧ s.alive ∧ s.linkMode = .bus ∧ s.paused = false
          ∧ s.env.exchanges = List.replicate (([0xFB] ++ [0x0D, 0x0A] : List Byte).flatMap fun b =>
            if b ∈ s.cfg.reserved then [s.cfg.busEsc, b ^^^ s.cfg.busMask] else [b]).length s.cfg.busIdle ++ []) :=
  ⟨⟨up_alive, rfl⟩, by decide, ⟨by decide, rfl⟩, rfl, rfl, by decide⟩

/-- A plain reply ended by CR; and one ended by LF after an empty line and an unknown one longer than the line buffer. -/
theorem wit_ExpectOkComparesTheReply :
    let s := up.hearing [0x30, 0x0D]
    let long : List Byte := List.replicate 20 0x78
    let s' := up.hearing ([0x0D, 0x0A] ++ long ++ [0x0A] ++ [0x4F, 0x4B] ++ [0x0A])
    let earlier : List (List Byte × List Byte) := [([], [0x0D, 0x0A]), (long, [0x0A])]
    (s.cfg.valid = true ∧ s.alive ∧ s.linkMode = .stream ∧ s.rxState = .idle ∧ isLineText s.cfg [0x30]
        ∧ s.cfg.escChar ≠ 0x0D ∧ classifyLine s.cfg [0x30] = .code 0 .success []
        ∧ s.env.linkReads = ([0x30] ++ [0x0D] : List Byte).map some ++ [none, none])
      ∧ (∀ p ∈ earlier, isLineText s'.cfg p.1 ∧ (p.1 = [] ∨ classifyLine s'.cfg p.1 = .unknown)
        ∧ p.2 ≠ [] ∧ ∀ b ∈ p.2, (b = 0x0D ∨ b = 0x0A) ∧ b ≠ s'.cfg.escChar)
      ∧ (s'.cfg.lineBufInternal < long.length ∧ isLineText s'.cfg [0x4F, 0x4B] ∧ (0x0A : Byte) ≠ s'.cfg.escChar
        ∧ classifyLine s'.cfg [0x4F, 0x4B] = .code 0 .success []
        ∧ s'.env.linkReads = ((earlier.flatMap fun p : List Byte × List Byte => p.1 ++ p.2) ++ [0x4F, 0x4B] ++ [0x0A]).map some
          ++ [none, none]) := by
  refine ⟨⟨by decide, ⟨by decide, rfl⟩, rfl, rfl, ?_, by decide, by decide, by decide⟩, ?_, by decide, ?_, by decide,
    by decide, by decide⟩ <;> unfold isLineText <;> decide

/-- DISASSO_EVT with a trailing CR LF, and NOIP. -/
theorem wit_CascadeIsReportedOnce :
    let s : State := { conn2 with associated := true, assocPending := .none }
    s.associated = true ∧ s.assocPending = .none ∧ s.ncmPending = .none
      ∧ (s.ncmValid = true → s.conn[s.ncmCid].connected = false)
      ∧ classifyLine s.cfg (stripBody [0x31, 0x30, 0x0D, 0x0A]) = .code 10 .disassoEvt []
      ∧ stripBody [0x31, 0x30, 0x0D, 0x0A] ≠ [] ∧ s.cfg.subtype 10 = some 7
      ∧ classifyLine s.cfg (stripBody [0x31, 0x35]) = .code 15 .noip [] ∧ stripBody [0x31, 0x35] ≠ []
      ∧ s.cfg.subtype 15 = some 12 := by decide

theorem wit_AsyncDispatchByCode :
    (stripBody [0x37, 0x20, 0x33] ≠ [] ∧ classifyLine up.cfg (stripBody [0x37, 0x20, 0x33]) = .code 7 .conSuccess [3])
      ∧ (∀ b ∈ ([0x0D, 0x0A] : List Byte), b = 0x0D ∨ b = 0x0A)
      ∧ (∀ b ∈ ([0x78] : List Byte).getLast?, b ≠ 0x0D ∧ b ≠ 0x0A) ∧ classifyLine up.cfg [0x78] = .unknown := by decide

theorem wit_HostConnectionOperations : conn2.alive := ⟨by decide, rfl⟩

theorem wit_FormatFieldsForms :
    (9999 : Half).toNat ≤ 9999 ∧ (0 : Half).toNat ≤ 9999
      ∧ up.cfg.txAddressed = [.esc, .lit 0x59, .cid, .ip, .lit 0x3A, .port, .lit 0x3A, .len] := by decide

theorem wit_FormatThenParse : (9999 : Half).toNat ≤ 9999 ∧ (0 : Half).toNat ≤ 9999 := by decide

/-- A byte and none on the link; and on the bus each kind of value, with a run of ALL-ONES of 18 and of 19. -/
theorem wit_PollTakesOneByte :
    (up.alive ∧ up.linkMode = .stream
      ∧ (up.hearing [0x1B]).env.linkReads = some 0x1B :: [none, none] ∧ (up.hearing []).env.linkReads = none :: [none])
    ∧ (upBus.alive ∧ upBus.cfg.valid = true ∧ upBus.linkMode = .bus
      ∧ ∀ run ∈ ([18, 19] : List Nat), ∀ r ∈ ([0xFF, 0x00, 0xFB, 0x41] : List Byte),
        let s := State.onBus { upBus with allOnesRun := run } [r]
        s.escPending = false ∧ s.env.dataReady = true :: [] ∧ s.env.exchanges = r :: []) :=
  ⟨⟨up_alive, rfl, rfl, rfl⟩, ⟨by decide, rfl⟩, by decide, rfl, by decide⟩

theorem wit_BufferedReads :
    tail2.alive ∧ 0 < tail2.tail.length.toNat ∧ 0 < tail2.used ∧ tail2.tail.cid = 2 ∧ tail2.tail.cid ≠ 15 :=
  ⟨⟨by decide, rfl⟩, by decide, by decide, by decide, by decide⟩

theorem wit_ReadBufCopiesTheTailFrame :
    tail2.alive ∧ tail2.registersOk = true ∧ 0 < tail2.tail.length.toNat ∧ 0 < tail2.used :=
  ⟨⟨by decide, rfl⟩, by decide, by decide, by decide⟩

/-- Nothing buffered and no frame live; a live tail frame of CID 2 of which nothing has come; and the same with its first
byte on the link. -/
theorem wit_ReadsPollOnceWhenEmpty :
    (up.alive ∧ up.linkMode = .stream ∧ up.registersOk = true ∧ up.ringEmpty
      ∧ (up.hearing []).env.linkReads = none :: [none])
    ∧ (announced2.alive ∧ announced2.linkMode = .stream ∧ announced2.registersOk = true
      ∧ 0 < announced2.tail.length.toNat ∧ announced2.headIdx = announced2.tailIdx ∧ announced2.tail.cid = 2
      ∧ (announced2.hearing []).env.linkReads = none :: [none])
    ∧ (State.Inv (announced2.hearing [0x71]) ∧ announced2.rxState = .bulk
      ∧ (announced2.hearing [0x71]).env.linkReads = some 0x71 :: [none, none]) :=
  ⟨⟨up_alive, rfl, by decide, ⟨rfl, rfl⟩, rfl⟩,
    ⟨⟨by decide, rfl⟩, by decide, by decide, by decide, by decide, by decide, rfl⟩,
    ⟨by constructor <;> decide, by decide, rfl⟩⟩

theorem wit_ServiceDeliversPendingEvents :
    up.cfg.valid = true ∧ up.alive ∧ up.linkMode = .stream ∧ (up.hearing []).env.linkReads = none :: [none]
      ∧ exec .service (up.hearing []) = .next (after .service (up.hearing [])) :=
  ⟨by decide, up_alive, rfl, rfl, rfl⟩

theorem wit_ServiceStopsAtTheFrame :
    let h : FrameHeader := ⟨15, 9999, false, ⟨0, 0, 0, 0⟩, 0⟩
    let s := up.hearing (encodeRxHeader up.cfg h)
    s.Inv ∧ s.alive ∧ s.linkMode = .stream ∧ s.rxState = .idle ∧ h.udp = false ∧ plainIsBare h ∧ 0 < h.length.toNat
      ∧ h.length.toNat ≤ 9999 ∧ 7 ≤ s.cfg.serviceMaxIter
      ∧ s.env.linkReads = (encodeRxHeader s.cfg h).map some ++ [none, none] :=
  ⟨up_inv.env _, ⟨by decide, rfl⟩, rfl, rfl, rfl, fun _ => ⟨rfl, rfl⟩, by decide, by decide, by decide, rfl⟩

theorem wit_WriteChecksBeforeSending : up.alive ∧ ([0x61] : List Byte) ≠ [] ∧ up.conn[(15 : Cid)].connected = false :=
  ⟨up_alive, by decide, by decide⟩

/-- One byte, and one byte more than a frame holds. -/
theorem wit_WriteSendsEveryFrame :
    let s := conn2.hearing [0x1B, 0x4F]
    s.alive ∧ lettersDiffer s.cfg ∧ s.linkMode = .stream ∧ s.rxState = .idle ∧ s.cfg.awaitDataResponse = true
      ∧ s.conn[(2 : Cid)].connected = true ∧ ([0x61] : List Byte) ≠ [] ∧ ([0x61] : List Byte).length < 65536
      ∧ s.env.linkReads = (List.replicate (frameCount [0x61]) [some s.cfg.escChar, some s.cfg.introOk]).flatten ++ [none, none]
      ∧ frameCount (List.replicate 1401 0x61) = 2 := by
  refine ⟨⟨by decide, rfl⟩, vector_lettersDiffer, rfl, rfl, rfl, by decide, by decide, by decide, by decide, ?_⟩
  unfold frameCount
  rw [List.length_replicate]
  rfl

/-- The same byte in BUS mode. -/
theorem wit_WriteSendsEveryFrame_bus :
    let s := State.onBus { conn2 with linkMode := .bus } (List.replicate 8 0xF5 ++ [0x1B, 0x4F])
    let frames := framesOf (frameCount [0x61]) [0x61]
    s.cfg.valid = true ∧ s.alive ∧ lettersDiffer s.cfg ∧ s.cfg.escChar ∉ s.cfg.reserved
      ∧ s.cfg.introOk ∉ s.cfg.reserved ∧ s.linkMode = .bus ∧ s.paused = false ∧ s.escPending = false ∧ s.rxState = .idle
      ∧ s.conn[(2 : Cid)].connected = true ∧ ([0x61] : List Byte) ≠ [] ∧ ([0x61] : List Byte).length < 65536
      ∧ s.env.exchanges = (frames.flatMap fun f => List.replicate ((frameBytes s.cfg 2 none f).flatMap fun b =>
          if b ∈ s.cfg.reserved then [s.cfg.busEsc, b ^^^ s.cfg.busMask] else [b]).length s.cfg.busIdle
            ++ [s.cfg.escChar, s.cfg.introOk]) ++ []
      ∧ s.env.dataReady = List.replicate (2 * frameCount [0x61]) true ++ List.replicate 8 true :=
  ⟨by decide, ⟨by decide, rfl⟩, vector_lettersDiffer, by decide, by decide, rfl, rfl, rfl, rfl, by decide, by decide,
    by decide, by decide, by decide⟩

theorem wit_RejectedFrameEndsTheWrite :
    let s := conn2.hearing [0x1B, 0x46]
    s.alive ∧ lettersDiffer s.cfg ∧ s.linkMode = .stream ∧ s.rxState = .idle ∧ s.cfg.awaitDataResponse = true
      ∧ s.conn[(2 : Cid)].connected = true ∧ ([0x61] : List Byte).length < 65536 ∧ 0 < frameCount [0x61]
      ∧ s.env.linkReads = (List.replicate 0 [some s.cfg.escChar, some s.cfg.introOk]).flatten
        ++ some s.cfg.escChar :: some s.cfg.introFail :: [none, none] :=
  ⟨⟨by decide, rfl⟩, vector_lettersDiffer, rfl, rfl, rfl, by decide, by decide, by decide, rfl⟩

/-- 95 V46.7: the record of an ECIDCLOSE of CID 2 comes in during the wait of the first of two frames. -/
theorem wit_RejectedFrameEndsTheWrite_disconnected :
    let s := conn2.hearing [0x1B, 0x41, 0x35, 0x30, 0x33, 0x38, 0x20, 0x32, 0x1B, 0x4F]
    let body : List Byte := [0x38, 0x20, 0x32]
    s.Inv ∧ s.alive ∧ lettersDiffer s.cfg ∧ s.linkMode = .stream ∧ s.rxState = .idle
      ∧ s.conn[(2 : Cid)].connected = true ∧ body.length ≤ 99
      ∧ (after (.asyncDispatch 5 body) s).conn[(2 : Cid)].connected = false
      ∧ s.env.linkReads = (List.replicate 0 [some s.cfg.escChar, some s.cfg.introOk]).flatten
        ++ ([s.cfg.escChar, s.cfg.introA, hexU 5, BitVec.ofNat 8 (0x30 + body.length / 10),
          BitVec.ofNat 8 (0x30 + body.length % 10)] ++ body ++ [s.cfg.escChar, s.cfg.introOk]).map some ++ [none, none]
      ∧ 0 + 1 < frameCount (List.replicate 1401 0x61) := by
  refine ⟨by constructor <;> decide, ⟨by decide, rfl⟩, vector_lettersDiffer, rfl, rfl, by decide, by decide, by decide,
    by decide, ?_⟩
  unfold frameCount
  rw [List.length_replicate]
  decide

theorem wit_DataResponseWait_bus :
    let s := upBus.onBus (List.replicate 8 0xF5 ++ [0x1B, 0x4F])
    s.cfg.valid = true ∧ s.unrecoverable = false ∧ lettersDiffer s.cfg ∧ s.linkMode = .bus ∧ s.paused = false
      ∧ s.escPending = false ∧ s.rxState = .idle ∧ s.cfg.escChar ∉ s.cfg.reserved ∧ s.cfg.introOk ∉ s.cfg.reserved
      ∧ s.cfg.introFail ∉ s.cfg.reserved
      ∧ s.env.exchanges = List.replicate ((frameBytes s.cfg 2 none [0x61]).flatMap fun b =>
          if b ∈ s.cfg.reserved then [s.cfg.busEsc, b ^^^ s.cfg.busMask] else [b]).length s.cfg.busIdle
            ++ s.cfg.escChar :: s.cfg.introOk :: []
      ∧ s.env.dataReady = true :: true :: List.replicate 8 true :=
  ⟨by decide, rfl, vector_lettersDiffer, rfl, rfl, rfl, rfl, by decide, by decide, by decide, by decide, by decide⟩

theorem wit_DataResponseWait :
    (up.unrecoverable = false ∧ lettersDiffer up.cfg ∧ up.linkMode = .stream ∧ up.rxState = .idle
        ∧ up.cfg.awaitDataResponse = true
        ∧ (up.hearing [0x1B, 0x4F]).env.linkReads = some up.cfg.escChar :: some up.cfg.introOk :: [none, none]
        ∧ (up.hearing [0x1B, 0x46]).env.linkReads = some up.cfg.escChar :: some up.cfg.introFail :: [none, none])
      ∧ (State.dataResp { up with dataResp := .ok } = .ok ∧ State.dataResp { up with dataResp := .fail } = .fail)
      ∧ (up.dataResp = .none ∧ (up.hearing []).env.linkReads = none :: [none] ∧ (up.hearing []).env.expired = true :: []) :=
  ⟨⟨rfl, vector_lettersDiffer, rfl, rfl, rfl, rfl, rfl⟩, ⟨rfl, rfl⟩, ⟨rfl, rfl, rfl⟩⟩

end Sys2Proof.Machine
end

section
/-! PROOFS. The bus codec (40_bus_codec.md): what one pass of CODEC_SEND does in STREAM mode, what CODEC_RECV does with
a scripted answer in BUS mode, and the statements of R152 and R159. -/

namespace Sys2Proof.Machine

/-! ## Running an operation in progress (log 6) -/

@[simp] theorem runActivity_of_idle (n : Nat) (s : State) (h : s.activity = none) : runActivity n s = s := by
  cases n with
  | zero => rfl
  | succ n => rw [runActivity, h]

theorem runActivity_succ (n : Nat) (s : State) (a : Activity) (h : s.activity = some a) :
    runActivity (n + 1) s = runActivity n (pass a s) := by
  rw [runActivity, h]

/-- An operation that ends in its first pass has run whole in one step: the budget is never 0. -/
theorem State.resume_of_pass_ends (s : State) (a : Activity) (h : s.activity = some a)
    (hend : (pass a s).activity = none) : s.resume = pass a s :=
  (runActivity_succ _ s a h).trans (runActivity_of_idle _ _ hend)

/-! ## CODEC_SEND in STREAM mode (40 R152) -/

theorem sendByte_stream (b : Byte) (s : State) (hm : s.linkMode = .stream) : sendByte b s = linkWrite b s := by
  unfold sendByte
  rw [hm]

theorem sendBytes_stream (bytes : List Byte) : ∀ s : State, s.linkMode = .stream → s.unrecoverable = false →
    sendBytes bytes s = ([], { s with trace := (bytes.map LinkEvent.write).reverse ++ s.trace }) := by
  induction bytes with
  | nil => intro s _ _; rfl
  | cons b bs ih =>
    intro s hm hu
    rw [sendBytes, if_neg (by simp [hu]), if_neg (by simp [hm]), sendByte_stream b s hm,
      ih (linkWrite b s) hm hu]
    simp [linkWrite, State.note]

/-- In STREAM mode one pass sends every byte: nothing pauses it and nothing can kill the block. -/
theorem passSend_stream (bytes : List Byte) (k : SendThen) (s : State) (hm : s.linkMode = .stream)
    (hu : s.unrecoverable = false) :
    passSend bytes k s = sendDone k { s with trace := (bytes.map LinkEvent.write).reverse ++ s.trace } := by
  unfold passSend
  rw [if_neg (by simp [hu]), if_neg (by simp [hm]), sendBytes_stream bytes s hm hu]
  dsimp only
  rw [if_neg (by simp [hu]), if_pos rfl]

theorem exec_codecSend_stream (b : Byte) (s : State) (hm : s.linkMode = .stream) (hu : s.unrecoverable = false) :
    exec (.codecSend b) s =
      .next { s with trace := .write b :: s.trace, activity := none, result := some (.code .ok) } := by
  have hpass := passSend_stream [b] .codec (s.beginActivity (.send [b] .codec)) hm hu
  have hrun := State.resume_of_pass_ends (s.beginActivity (.send [b] .codec)) (.send [b] .codec) rfl
    (congrArg State.activity hpass)
  exact congrArg Host.Outcome.next (hrun.trans hpass)

/-! ## CODEC_RECV (40 R152, R155) -/

theorem exec_codecRecv (s t : State) (a : Option Byte) (h : codecRecv s = (a, t)) :
    exec .codecRecv s = .next { t with result := some (.byte a) } := by
  change execCodecRecv s = _
  unfold execCodecRecv
  rw [h]
  rfl

/-- A LinkRead, scripted or free: it answers some value, which is noted, and only the environment has moved besides. -/
theorem linkRead_cases (s : State) :
    ∃ (a : Option Byte) (e : Env), linkRead s = (a, { s with env := e, trace := .read a :: s.trace }) := by
  unfold linkRead
  split <;> exact ⟨_, _, rfl⟩

/-- A value that is not reserved is data (40 R155). -/
theorem recvPlain_of_not_reserved (r : Byte) (s : State) (h : r ∉ s.cfg.reserved) :
    recvPlain r s = (some r, { s with allOnesRun := 0 }) := by
  simp only [Config.reserved, List.mem_cons, List.not_mem_nil, or_false, not_or] at h
  obtain ⟨hzeros, hack, hidle, hxoff, hesc, hxon, hones⟩ := h
  simp [recvPlain, State.clearAllOnes, hzeros, hack, hidle, hxoff, hesc, hxon, hones]

/-- BUS_ESC with no escape pending announces an escaped byte (40 R155); it is no ALL-ONES marker, because the reserved
values differ (30 R100). -/
theorem recvPlain_busEsc (r : Byte) (s : State) (hv : s.cfg.valid = true) (hr : r = s.cfg.busEsc) :
    recvPlain r s = (none, { s with allOnesRun := 0, escPending := true }) := by
  have hn := Config.reserved_nodup s.cfg hv
  simp only [Config.reserved, List.nodup_cons, List.mem_cons, not_or] at hn
  obtain ⟨-, -, -, -, ⟨-, hones, -⟩, -⟩ := hn
  unfold recvPlain
  rw [if_neg (by rw [hr]; exact hones)]
  exact if_pos hr

theorem codecRecv_bus_escPending (s : State) (hm : s.linkMode = .bus) (hu : s.unrecoverable = false)
    (he : s.escPending = true) : codecRecv s = recvBus s := by
  unfold codecRecv
  rw [if_neg (by simp [hu]), hm]
  exact if_pos he

theorem codecRecv_bus_ready (s t : State) (hm : s.linkMode = .bus) (hu : s.unrecoverable = false)
    (he : s.escPending = false) (hready : busDataReady s = (true, t)) : codecRecv s = recvBus t := by
  unfold codecRecv
  rw [if_neg (by simp [hu]), hm, hready]
  exact if_neg (by simp [he])

theorem recvBus_plain (s t : State) (r : Byte) (hx : busExchange s.cfg.busIdle s = (r, t)) (he : t.escPending = false) :
    recvBus s = recvPlain r t := by
  unfold recvBus
  rw [hx]
  exact if_neg (by simp [he])

theorem recvBus_escaped (s t : State) (r : Byte) (hx : busExchange s.cfg.busIdle s = (r, t))
    (he : t.escPending = true) :
    recvBus s = (some (r ^^^ t.cfg.busMask), { t with escPending := false, allOnesRun := 0 }) := by
  unfold recvBus
  rw [hx]
  exact if_pos he

/-- CODEC_RECV with no escape pending and data ready: one exchange of BUS_IDLE, and the value received decides. -/
theorem codecRecv_ready_script (s : State) (r : Byte) (rest : List Byte) (q : List Bool) (hm : s.linkMode = .bus)
    (hu : s.unrecoverable = false) (he : s.escPending = false) (hq : s.env.dataReady = true :: q)
    (hx : s.env.exchanges = r :: rest) :
    codecRecv s = recvPlain r { s with
      env := { s.env with dataReady := q, exchanges := rest }
      trace := .exchange s.cfg.busIdle r :: .ready true :: s.trace } :=
  (codecRecv_bus_ready s _ hm hu he (busDataReady_script s true q hq)).trans
    (recvBus_plain _ _ r (busExchange_script s.cfg.busIdle r _ rest hx) he)

/-- CODEC_RECV with an escape pending: the data-ready line is not asked, and the value received is an escaped byte,
whatever it is. -/
theorem codecRecv_escaped_script (s : State) (r : Byte) (rest : List Byte) (hm : s.linkMode = .bus)
    (hu : s.unrecoverable = false) (he : s.escPending = true) (hx : s.env.exchanges = r :: rest) :
    codecRecv s = (some (r ^^^ s.cfg.busMask), { s with
      env := { s.env with exchanges := rest }, trace := .exchange s.cfg.busIdle r :: s.trace
      escPending := false, allOnesRun := 0 }) :=
  (codecRecv_bus_escPending s hm hu he).trans
    (recvBus_escaped s _ r (busExchange_script s.cfg.busIdle r s rest hx) he)

/-! ## The statements -/

/-- Settles O18: one pass of CODEC_SEND writes the byte, and CODEC_RECV is the one LinkRead, scripted or free. -/
theorem streamPassesBytesThrough : Obligations.StreamPassesBytesThrough := by
  intro s hm hu
  have hrecv := codecRecv_stream s hu hm
  refine ⟨fun b => exec_codecSend_stream b s hm hu, fun a rest ha => ?scripted, ?any⟩
  case scripted => exact exec_codecRecv s _ a (hrecv.trans (linkRead_script s a rest ha))
  case any =>
    obtain ⟨a, e, hread⟩ := linkRead_cases s
    exact ⟨a, e, exec_codecRecv s _ a (hrecv.trans hread)⟩

/-- Settles O21: a byte that is not reserved is received as it is; of an escaped pair the first call takes BUS_ESC and
leaves the escape pending, and the second undoes the mask, which is its own inverse. -/
theorem escapeRoundTrip : Obligations.EscapeRoundTrip := by
  intro b s rest q hv hm hu he hq hx
  refine ⟨fun hb => ?unreserved, fun hb => ?reserved⟩
  case unreserved =>
    rw [if_neg hb] at hx
    have hrecv := (codecRecv_ready_script s b rest q hm hu he hq hx).trans (recvPlain_of_not_reserved b _ hb)
    exact ⟨_, exec_codecRecv s _ _ hrecv, rfl, he, rfl⟩
  case reserved =>
    rw [if_pos hb] at hx
    have hfirst := exec_codecRecv s _ _
      ((codecRecv_ready_script s s.cfg.busEsc _ q hm hu he hq hx).trans (recvPlain_busEsc _ _ hv rfl))
    have hunmask : b ^^^ s.cfg.busMask ^^^ s.cfg.busMask = b := by
      rw [BitVec.xor_assoc, BitVec.xor_self, BitVec.xor_zero]
    refine ⟨_, _, hfirst, rfl, exec_codecRecv _ _ _ (codecRecv_escaped_script _ _ rest hm hu rfl rfl), ?_, rfl, rfl⟩
    exact congrArg (fun v => some (Response.byte (some v))) hunmask

end Sys2Proof.Machine
end

section
/-! PROOFS. RX_PROCESS (41_receive_sm.md R190) as one rewriting rule for each arm, and the statement of the arms that
parse nothing (R191, R192, R199). -/

namespace Sys2Proof.Machine

/-! ## RX_PROCESS, arm by arm (41 R190) -/

theorem exec_rxProcess (b : Byte) (s : State) :
    exec (.rxProcess b) s = .next ((rxProcess b s).2.respond (.rx (rxProcess b s).1)) := rfl

theorem after_rxProcess (b : Byte) (s : State) :
    after (.rxProcess b) s = (rxProcess b s).2.respond (.rx (rxProcess b s).1) := rfl

section
variable (b : Byte) {s : State}

theorem rxProcess_idle (h : s.rxState = .idle) : rxProcess b s = rxIdle b s := by
  unfold rxProcess; rw [h]

theorem rxProcess_escape (h : s.rxState = .escape) : rxProcess b s = (.absorbed, rxEscape b s) := by
  unfold rxProcess; rw [h]

theorem rxProcess_escapeZ (h : s.rxState = .escapeZ) : rxProcess b s = (.absorbed, rxEscapeZ b s) := by
  unfold rxProcess; rw [h]

theorem rxProcess_escapeA (h : s.rxState = .escapeA) : rxProcess b s = (.absorbed, rxEscapeA b s) := by
  unfold rxProcess; rw [h]

theorem rxProcess_escapeY1 (h : s.rxState = .escapeY1) : rxProcess b s = (.absorbed, rxEscapeY1 b s) := by
  unfold rxProcess; rw [h]

theorem rxProcess_escapeY2 (h : s.rxState = .escapeY2) : rxProcess b s = (.absorbed, rxEscapeY2 b s) := by
  unfold rxProcess; rw [h]

theorem rxProcess_escapeY3 (h : s.rxState = .escapeY3) : rxProcess b s = (.absorbed, rxEscapeY3 b s) := by
  unfold rxProcess; rw [h]

theorem rxProcess_bulk (h : s.rxState = .bulk) : rxProcess b s = (.absorbed, rxBulk b s) := by
  unfold rxProcess; rw [h]

end

/-! ## The arms without a parser (41 R191, R192, R199) -/

theorem exec_rxProcess_idle (b : Byte) (s : State) (h : s.rxState = .idle) : exec (.rxProcess b) s =
    if b = s.cfg.escChar then .next { s with rxState := .escape, result := some (.rx .absorbed) }
    else .next { s with result := some (.rx (.line b)) } := by
  rw [exec_rxProcess, rxProcess_idle b h]
  unfold rxIdle
  split <;> rfl

/-- A data response selected by ESC 'O' or ESC 'F', as the Escape arm leaves it. -/
theorem rxDataResp_idle (r : DataResp) (s : State) : { rxDataResp r s with rxState := .idle } =
    if s.dataWait = true ∧ s.dataResp = .none then { s with dataResp := r, rxState := .idle }
    else { s with rxState := .idle, log := .unsolicitedDataResponse :: s.log } := by
  unfold rxDataResp
  split <;> rfl

/-- The Escape arm with its two data responses as one branch. -/
theorem rxEscape_eq (b : Byte) (s : State) : rxEscape b s =
    if b = s.cfg.introZ then { s with scratchLen := 0, rxState := .escapeZ }
    else if b = s.cfg.introA then { s with scratchLen := 0, rxState := .escapeA }
    else if b = s.cfg.introY then { s with scratchLen := 0, rxState := .escapeY1 }
    else if b = s.cfg.introOk ∨ b = s.cfg.introFail then
      if s.dataWait = true ∧ s.dataResp = .none then
        { s with scratchLen := 0, dataResp := if b = s.cfg.introOk then .ok else .fail, rxState := .idle }
      else { s with scratchLen := 0, rxState := .idle, log := .unsolicitedDataResponse :: s.log }
    else if b = s.cfg.escChar then { s with scratchLen := 0, rxState := .escape }
    else { s with scratchLen := 0, rxState := .idle, log := .unknownEscape :: s.log } := by
  unfold rxEscape
  simp only [rxDataResp_idle]
  by_cases hok : b = s.cfg.introOk
  · simp only [if_pos hok, if_pos (Or.inl hok : b = s.cfg.introOk ∨ b = s.cfg.introFail)]
  · by_cases hfail : b = s.cfg.introFail
    · simp only [if_neg hok, if_pos hfail, if_pos (Or.inr hfail : b = s.cfg.introOk ∨ b = s.cfg.introFail)]
    · simp only [if_neg hok, if_neg hfail, if_neg (not_or.2 ⟨hok, hfail⟩)]; rfl

theorem exec_rxProcess_bulk (b : Byte) (s : State) (h : s.rxState = .bulk) : exec (.rxProcess b) s =
    .next { after (.pushByte b) s with
      head := { s.head with length := s.head.length - 1 }
      rxState := if s.head.length - 1 = 0 then .idle else .bulk
      result := some (.rx .absorbed) } := by
  rw [exec_rxProcess, rxProcess_bulk b h]
  have hafter : after (.pushByte b) s = (pushByte b s).respond .none := rfl
  obtain ⟨_, _, _, _, _, _, hpush⟩ := pushByte_frame b s
  rw [hafter]
  unfold rxBulk
  rw [hpush, ← h]
  rfl

/-- Settles O24: the Idle and the Bulk arm are their lemmas, and the Escape arm is `rxEscape_eq` branch by branch. -/
theorem receiveArmsWithoutAParser : Obligations.ReceiveArmsWithoutAParser := by
  refine ⟨exec_rxProcess_idle, fun b s h => ?escape, exec_rxProcess_bulk⟩
  case escape =>
    intro u
    rw [exec_rxProcess, rxProcess_escape b h, rxEscape_eq]
    simp only [u]
    repeat' split
    all_goals rfl

end Sys2Proof.Machine
end

section
/-! PROOFS. The parsers of 45_parsers.md on the characters that its formatters write (45 R395, R396). -/

namespace Sys2Proof.Machine

/-! ## Characters of digits (45 R391) -/

theorem toNat_decChar (d : Nat) (hd : d < 10) : (decChar d).toNat = 0x30 + d := by
  unfold decChar
  rw [BitVec.toNat_ofNat]
  omega

theorem isDec_decChar (d : Nat) (hd : d < 10) : isDec (decChar d) = true := by
  simp only [isDec, toNat_decChar d hd, Bool.and_eq_true, decide_eq_true_eq]
  omega

theorem decValue_decChar (d : Nat) (hd : d < 10) : decValue (decChar d) = d := by
  simp [decValue, toNat_decChar d hd]

theorem digitValue_decChar (d : Nat) (hd : d < 10) : digitValue (decChar d) = some d := by
  simp only [digitValue, toNat_decChar d hd]
  rw [if_pos (by omega)]
  simp

theorem parseHexCid_hexU (c : Cid) : parseHexCid (hexU c) = some c := by
  revert c
  decide

theorem hexU_ne_SP (c : Cid) : hexU c ≠ chSP := by
  revert c
  decide

/-! ## decN and dec4 read by PARSE_INT (45 R390, R395) -/

theorem parseDigits_decChar (bits d v : Nat) (cs : List Byte) (hd : d < 10) (hv : v * 10 + d < 2 ^ bits) :
    parseDigits 10 bits (decChar d :: cs) v = parseDigits 10 bits cs (v * 10 + d) := by
  simp only [parseDigits, digitValue_decChar d hd]
  rw [if_neg (by omega), if_neg (by omega)]

theorem parseInt_base10 (cs : List Byte) (bits : Nat) : parseInt cs 10 bits = parseDigits 10 bits cs 0 := rfl

theorem parseInt_decN (v : Nat) (hv : v < 65536) : parseInt (decN v) 10 16 = some v := by
  rw [parseInt_base10]
  unfold decN
  split_ifs
  all_goals
    simp (disch := omega) only [parseDigits_decChar]
    simp only [parseDigits, Option.some.injEq]
    omega

theorem parseInt_dec4 (v : Nat) (hv : v < 10000) : parseInt (dec4 v) 10 16 = some v := by
  rw [parseInt_base10, dec4, if_pos hv]
  simp (disch := omega) only [parseDigits_decChar]
  simp only [parseDigits, Option.some.injEq]
  omega

theorem parseDec16_of_parseInt (cs : List Byte) (n : Half) (h : parseInt cs 10 16 = some n.toNat) :
    parseDec16 cs = some n := by
  simp [parseDec16, h]

theorem parseDec16_decN (n : Half) : parseDec16 (decN n.toNat) = some n :=
  parseDec16_of_parseInt _ n (parseInt_decN _ n.isLt)

theorem parseDec16_dec4 (n : Half) (hn : n.toNat < 10000) : parseDec16 (dec4 n.toNat) = some n :=
  parseDec16_of_parseInt _ n (parseInt_dec4 _ hn)

/-! ## The shape of decN, dec4 and dotted (45 R395) -/

theorem length_decN (v : Nat) : 1 ≤ (decN v).length ∧ (decN v).length ≤ 5 := by
  unfold decN
  split_ifs <;> simp

/-- The decimal form of an octet: at most three digits. -/
theorem decN_byte (v : Byte) : decN v.toNat =
    if v.toNat < 10 then [decChar v.toNat]
    else if v.toNat < 100 then [decChar (v.toNat / 10), decChar (v.toNat % 10)]
    else [decChar (v.toNat / 100), decChar (v.toNat / 10 % 10), decChar (v.toNat % 10)] := by
  have hv : v.toNat < 1000 := Nat.lt_trans v.isLt (by decide)
  rw [decN, if_pos hv]

theorem length_decN_byte (v : Byte) : (decN v.toNat).length ≤ 3 := by
  rw [decN_byte]
  split_ifs <;> simp

theorem all_isDec_decN (v : Nat) (hv : v < 65536) : (decN v).all isDec = true := by
  unfold decN
  split_ifs
  all_goals simp (disch := omega) only [List.all_cons, List.all_nil, isDec_decChar, Bool.and_self]

theorem isDec_of_mem_decN (v : Nat) (hv : v < 65536) (b : Byte) (h : b ∈ decN v) : isDec b = true :=
  List.all_eq_true.1 (all_isDec_decN v hv) b h

theorem ne_SP_of_mem_dotted (a : IPv4) (b : Byte) (h : b ∈ dotted a) : b ≠ chSP := by
  have hdigit : ∀ v : Byte, b ∈ decN v.toNat → b ≠ chSP := by
    rintro v hb rfl
    exact absurd (isDec_of_mem_decN _ (Nat.lt_trans v.isLt (by decide)) _ hb) (by decide)
  have hdot : b = chDot → b ≠ chSP := by rintro rfl; decide
  simp only [dotted, List.mem_append, List.mem_cons] at h
  rcases h with h | h | h | h | h | h | h
  exacts [hdigit _ h, hdot h, hdigit _ h, hdot h, hdigit _ h, hdot h, hdigit _ h]

/-- The last character of dec4 is apart from the three before it. -/
theorem dec4_eq_snoc (v : Nat) (hv : v < 10000) :
    ∃ (pre : List Byte) (last : Byte), dec4 v = pre ++ [last] ∧ pre.length = 3 :=
  ⟨[_, _, _], _, by rw [dec4, if_pos hv]; rfl, rfl⟩

theorem length_dotted (a : IPv4) : 7 ≤ (dotted a).length ∧ (dotted a).length ≤ 15 := by
  have h1 := length_decN a.o1.toNat
  have h2 := length_decN a.o2.toNat
  have h3 := length_decN a.o3.toNat
  have h4 := length_decN a.o4.toNat
  have l1 := length_decN_byte a.o1
  have l2 := length_decN_byte a.o2
  have l3 := length_decN_byte a.o3
  have l4 := length_decN_byte a.o4
  simp only [dotted, List.length_append, List.length_cons]
  omega

/-! ## dotted read by PARSE_IP (45 R393, R395) -/

theorem parseGroups_decChar (d digits v : Nat) (cs done : List Byte) (hd : d < 10) (hn : digits ≠ 3) :
    parseGroups (decChar d :: cs) digits v done = parseGroups cs (digits + 1) (10 * v + d) done := by
  simp only [parseGroups, isDec_decChar d hd, decValue_decChar d hd, if_true, if_neg hn]

/-- A group's characters leave its digit count and its value, whatever follows. -/
theorem parseGroups_decN (v : Byte) (cs done : List Byte) :
    parseGroups (decN v.toNat ++ cs) 0 0 done = parseGroups cs (decN v.toNat).length v.toNat done := by
  have hv : v.toNat < 256 := v.isLt
  rw [decN_byte]
  split_ifs
  all_goals
    simp (disch := omega) only [List.cons_append, List.nil_append, parseGroups_decChar]
    refine congrArg₂ (fun k n => parseGroups cs k n done) rfl ?_
    omega

theorem closeGroup_byte (digits : Nat) (v : Byte) (done : List Byte) (hn : digits ≠ 0) (hd : done.length ≠ 4) :
    closeGroup digits v.toNat done = some (done ++ [v]) := by
  have hv : v.toNat < 256 := v.isLt
  unfold closeGroup
  rw [if_neg hn, if_neg (by omega), if_neg hd, BitVec.ofNat_toNat, BitVec.setWidth_eq]

theorem parseGroups_decN_dot (v : Byte) (cs done : List Byte) (hd : done.length ≠ 4) (hc : cs ≠ []) :
    parseGroups (decN v.toNat ++ chDot :: cs) 0 0 done = parseGroups cs 0 0 (done ++ [v]) := by
  have hn := length_decN v.toNat
  have hdot : isDec chDot = false := rfl
  rw [parseGroups_decN, parseGroups, closeGroup_byte _ v done (Nat.ne_of_gt hn.1) hd]
  simp [hdot, hc]

theorem parseGroups_decN_end (v : Byte) (done : List Byte) (hd : done.length ≠ 4) :
    parseGroups (decN v.toNat) 0 0 done = some (done ++ [v]) := by
  have hn := length_decN v.toNat
  have hend := parseGroups_decN v [] done
  rw [List.append_nil] at hend
  rw [hend, parseGroups, closeGroup_byte _ v done (Nat.ne_of_gt hn.1) hd]

theorem decN_ne_nil (v : Nat) : decN v ≠ [] := List.ne_nil_of_length_pos (length_decN v).1

theorem parseIp_dotted (a : IPv4) : parseIp (dotted a) = some ⟨4, a⟩ := by
  have hgroups : parseGroups (dotted a) 0 0 [] = some a.octets := by
    unfold dotted
    rw [parseGroups_decN_dot a.o1 _ [] (by simp) (by simp), parseGroups_decN_dot a.o2 _ _ (by simp) (by simp),
      parseGroups_decN_dot a.o3 _ _ (by simp) (decN_ne_nil _), parseGroups_decN_end a.o4 _ (by simp)]
    rfl
  rw [parseIp, hgroups]
  rfl

theorem parseFullIp_dotted (a : IPv4) : parseFullIp (dotted a) = some a := by
  simp [parseFullIp, parseIp_dotted a]

end Sys2Proof.Machine
end

section
/-! PROOFS. A frame header received (41_receive_sm.md R193, R196 to R198) and read back from the ring (42_ring_buffer.md
R244, R247): the header scratch buffer while a field is collected, the record of 20 R73, and the statement of R203. -/

namespace Sys2Proof.Machine

/-! ## Feeding bytes -/

theorem feed_append (xs ys : List Byte) (s : State) : feed (xs ++ ys) s = feed ys (feed xs s) := by
  induction xs generalizing s with
  | nil => rfl
  | cons x xs ih => exact ih _

theorem feed_snoc (xs : List Byte) (b : Byte) (s : State) :
    feed (xs ++ [b]) s = after (.rxProcess b) (feed xs s) := feed_append xs [b] s

/-! ## Collecting a field in the header scratch buffer (10 R38) -/

theorem Memory.writeList_snoc (bs : List Byte) (m : Memory) (a : Nat) (b : Byte) :
    m.writeList a (bs ++ [b]) = (m.writeList a bs).write (a + bs.length) b := by
  induction bs generalizing m a with
  | nil => rfl
  | cons c bs ih =>
    rw [List.cons_append, Memory.writeList, ih, Memory.writeList, List.length_cons, Nat.add_right_comm, Nat.add_assoc]

/-- The state in a header state of RX_PROCESS once the characters have been stored in `scratch`. -/
def State.collecting (s : State) (rx : RxState) (chars : List Byte) : State :=
  { s with
    rxState := rx
    scratch := s.scratch.writeList 0 chars
    scratchLen := chars.length
    result := some (.rx .absorbed) }

@[simp] theorem State.collecting_scratchLen (s : State) (rx : RxState) (chars : List Byte) :
    (s.collecting rx chars).scratchLen = chars.length := rfl

/-- In the receive state `rx`, a byte after `n` stored ones is stored and ends nothing (41 R193 to R198). -/
def storesNext (rx : RxState) (n : Nat) (b : Byte) : Prop :=
  match rx with
  | .escapeZ => n < 4
  | .escapeA => n < 2
  | .escapeY1 => n < scratchSize ∧ b ≠ chSP
  | .escapeY2 => n < 5 ∧ b ≠ chHT
  | .escapeY3 => n < 3
  | _ => False

theorem pushScratch_collecting (b : Byte) (s : State) (rx : RxState) (chars : List Byte) :
    pushScratch b (s.collecting rx chars) = s.collecting rx (chars ++ [b]) := by
  simp [pushScratch, State.collecting, Memory.writeList_snoc]

theorem after_rxProcess_stores (b : Byte) (s : State) (rx : RxState) (chars : List Byte)
    (h : storesNext rx chars.length b) :
    after (.rxProcess b) (s.collecting rx chars) = s.collecting rx (chars ++ [b]) := by
  have hpush := pushScratch_collecting b s rx chars
  have hlen : (s.collecting rx (chars ++ [b])).scratchLen = chars.length + 1 := by simp
  rw [after_rxProcess]
  cases rx with
  | escapeZ =>
    rw [rxProcess_escapeZ b rfl, rxEscapeZ, hpush, if_pos (by rw [hlen]; exact Nat.succ_lt_succ h)]
    rfl
  | escapeA =>
    rw [rxProcess_escapeA b rfl, rxEscapeA, hpush, if_pos (by rw [hlen]; exact Nat.succ_lt_succ h)]
    rfl
  | escapeY1 =>
    rw [rxProcess_escapeY1 b rfl, rxEscapeY1, hpush, if_neg h.2,
      if_neg (show ¬ (s.collecting _ chars).scratchLen = _ from Nat.ne_of_lt h.1)]
    rfl
  | escapeY2 =>
    rw [rxProcess_escapeY2 b rfl, rxEscapeY2, hpush, if_neg h.2,
      if_neg (show ¬ (s.collecting _ chars).scratchLen = _ from Nat.ne_of_lt h.1)]
    rfl
  | escapeY3 =>
    rw [rxProcess_escapeY3 b rfl, rxEscapeY3, hpush, if_pos (by rw [hlen]; exact Nat.succ_lt_succ h)]
    rfl
  | idle => exact h.elim
  | escape => exact h.elim
  | async => exact h.elim
  | bulk => exact h.elim

/-- Characters that end nothing are all collected, after those collected before. -/
theorem feed_collecting_append (bs : List Byte) (s : State) (rx : RxState) (chars : List Byte)
    (h : ∀ b ∈ bs, ∀ n < chars.length + bs.length, storesNext rx n b) :
    feed bs (s.collecting rx chars) = s.collecting rx (chars ++ bs) := by
  induction bs generalizing chars with
  | nil => rw [List.append_nil]; rfl
  | cons b bs ih =>
    have hfirst : storesNext rx chars.length b := h b (by simp) _ (by simp)
    rw [feed, after_rxProcess_stores b s rx chars hfirst, ih, List.append_assoc, List.singleton_append]
    intro c hc n hn
    exact h c (by simp [hc]) n (by simp at hn ⊢; omega)

theorem feed_collecting (bs : List Byte) (s : State) (rx : RxState)
    (h : ∀ b ∈ bs, ∀ n < bs.length, storesNext rx n b) : feed bs (s.collecting rx []) = s.collecting rx bs :=
  feed_collecting_append bs s rx [] (by simpa using h)

/-- What the parsers of a field read is what was collected. -/
theorem collecting_scratchSlice (s : State) (rx : RxState) (chars : List Byte) (hw : s.scratch.wf = true) :
    scratchSlice (s.collecting rx chars) 0 chars.length = chars :=
  Memory.readN_writeList chars s.scratch 0 hw

theorem collecting_scratch_cons (s : State) (rx : RxState) (c : Byte) (cs : List Byte) (hw : s.scratch.wf = true) :
    (s.collecting rx (c :: cs)).scratch.read 0 = c
      ∧ scratchSlice (s.collecting rx (c :: cs)) 1 cs.length = cs :=
  List.cons.inj (collecting_scratchSlice s rx (c :: cs) hw)

/-! ## The bytes that end a field -/

/-- The state with the CID and the address of field 1 of a UDP-server header taken from its characters. -/
def State.withField1 (s : State) (chars : List Byte) (cid : Cid) (ip : IPv4) : State :=
  { s with scratch := s.scratch.writeList 0 chars, yCid := cid, yIp := ip }

/-- The state with the port of field 2 taken from its characters. -/
def State.withField2 (s : State) (chars : List Byte) (port : Half) : State :=
  { s with scratch := s.scratch.writeList 0 chars, yPort := port }

theorem State.withField1_scratch_wf (s : State) (chars : List Byte) (cid : Cid) (ip : IPv4)
    (hw : s.scratch.wf = true) : (s.withField1 chars cid ip).scratch.wf = true := Memory.wf_writeList _ _ _ hw

theorem State.withField2_scratch_wf (s : State) (chars : List Byte) (port : Half) (hw : s.scratch.wf = true) :
    (s.withField2 chars port).scratch.wf = true := Memory.wf_writeList _ _ _ hw

/-- ESC and an introducer open a header: the scratch buffer is empty (41 R191, R192). -/
theorem feed_introducer (s : State) (hd : lettersDiffer s.cfg) (hidle : s.rxState = .idle) :
    feed [s.cfg.escChar, s.cfg.introZ] s = s.collecting .escapeZ []
      ∧ feed [s.cfg.escChar, s.cfg.introA] s = s.collecting .escapeA []
      ∧ feed [s.cfg.escChar, s.cfg.introY] s = s.collecting .escapeY1 [] := by
  have hesc : after (.rxProcess s.cfg.escChar) s = { s with rxState := .escape, result := some (.rx .absorbed) } := by
    rw [after, exec_rxProcess_idle _ s hidle, if_pos rfl]
  simp only [lettersDiffer, List.nodup_cons, List.mem_cons, not_or] at hd
  obtain ⟨⟨hza, hzy, -⟩, ⟨hay, -⟩, -⟩ := hd
  simp only [feed, hesc, after_rxProcess]
  refine ⟨?_, ?_, ?_⟩
  · rw [rxProcess_escape _ rfl, rxEscape_eq, if_pos rfl]; rfl
  · rw [rxProcess_escape _ rfl, rxEscape_eq, if_neg (Ne.symm hza), if_pos rfl]; rfl
  · rw [rxProcess_escape _ rfl, rxEscape_eq, if_neg (Ne.symm hzy), if_neg (Ne.symm hay), if_pos rfl]; rfl

/-- The fifth character of a bulk header completes it (41 R193). -/
theorem after_escapeZ_last (s : State) (c last : Byte) (pre : List Byte) (cid : Cid) (len : Half)
    (hw : s.scratch.wf = true) (hn : pre.length = 3) (hcid : parseHexCid c = some cid)
    (hlen : parseDec16 (pre ++ [last]) = some len) :
    after (.rxProcess last) (s.collecting .escapeZ (c :: pre)) =
      (acceptHeader ⟨cid, len, false, IPv4.zero, 0⟩ (s.collecting .escapeZ (c :: (pre ++ [last])))).respond
        (.rx .absorbed) := by
  obtain ⟨hread, hslice⟩ := collecting_scratch_cons s .escapeZ c (pre ++ [last]) hw
  have hfour : (pre ++ [last]).length = 4 := by simp [hn]
  rw [hfour] at hslice
  have hfull : ¬ (s.collecting .escapeZ (c :: (pre ++ [last]))).scratchLen < 5 := by simp [hn]
  rw [after_rxProcess, rxProcess_escapeZ last rfl, rxEscapeZ, pushScratch_collecting, List.cons_append, if_neg hfull,
    hread, hslice, hcid, hlen]

/-- SP ends field 1 of a UDP-server header (41 R196). -/
theorem after_escapeY1_sp (s : State) (c : Byte) (cs : List Byte) (cid : Cid) (ip : IPv4) (hw : s.scratch.wf = true)
    (hn : cs ≠ []) (hcid : parseHexCid c = some cid) (hip : parseFullIp cs = some ip) :
    after (.rxProcess chSP) (s.collecting .escapeY1 (c :: cs)) =
      (s.withField1 (c :: cs) cid ip).collecting .escapeY2 [] := by
  obtain ⟨hread, hslice⟩ := collecting_scratch_cons s .escapeY1 c cs hw
  have hcount : (s.collecting .escapeY1 (c :: cs)).scratchLen = cs.length + 1 := rfl
  have hpos := List.length_pos_iff.2 hn
  rw [after_rxProcess, rxProcess_escapeY1 chSP rfl, rxEscapeY1, if_pos rfl, hcount, if_neg (by omega),
    Nat.add_sub_cancel, hread, hslice, hcid, hip]
  rfl

/-- HT ends field 2 (41 R197). -/
theorem after_escapeY2_ht (s : State) (cs : List Byte) (port : Half) (hw : s.scratch.wf = true) (hn : cs ≠ [])
    (hport : parseDec16 cs = some port) :
    after (.rxProcess chHT) (s.collecting .escapeY2 cs) =
      (s.withField2 cs port).collecting .escapeY3 [] := by
  have hslice := collecting_scratchSlice s .escapeY2 cs hw
  have hcount : (s.collecting .escapeY2 cs).scratchLen = cs.length := rfl
  have hpos := List.length_pos_iff.2 hn
  rw [after_rxProcess, rxProcess_escapeY2 chHT rfl, rxEscapeY2, if_pos rfl, hcount, if_neg (by omega), hslice, hport]
  rfl

/-- The fourth character of field 3 completes the header (41 R198). -/
theorem after_escapeY3_last (s : State) (last : Byte) (pre : List Byte) (len : Half)
    (hw : s.scratch.wf = true) (hn : pre.length = 3) (hlen : parseDec16 (pre ++ [last]) = some len) :
    after (.rxProcess last) (s.collecting .escapeY3 pre) =
      (acceptHeader ⟨s.yCid, len, true, s.yIp, s.yPort⟩ (s.collecting .escapeY3 (pre ++ [last]))).respond
        (.rx .absorbed) := by
  have hslice := collecting_scratchSlice s .escapeY3 (pre ++ [last]) hw
  have hfour : (pre ++ [last]).length = 4 := by simp [hn]
  rw [hfour] at hslice
  have hfull : ¬ (s.collecting .escapeY3 (pre ++ [last])).scratchLen < 4 := by simp [hn]
  rw [after_rxProcess, rxProcess_escapeY3 last rfl, rxEscapeY3, pushScratch_collecting, if_neg hfull, hslice, hlen]
  rfl

/-! ## The fields in their wire form (45 R395) -/

/-- The CID and the length of a bulk header: five characters (41 R193). -/
theorem feed_bulkFields (s : State) (cid : Cid) (len : Half) (hw : s.scratch.wf = true) (hlen : len.toNat < 10000) :
    feed (hexU cid :: dec4 len.toNat) (s.collecting .escapeZ []) =
      (acceptHeader ⟨cid, len, false, IPv4.zero, 0⟩ (s.collecting .escapeZ (hexU cid :: dec4 len.toNat))).respond
        (.rx .absorbed) := by
  have hparse := parseDec16_dec4 len hlen
  obtain ⟨pre, last, hdec, hpre⟩ := dec4_eq_snoc len.toNat hlen
  have hstores : ∀ b ∈ hexU cid :: pre, ∀ n < (hexU cid :: pre).length, storesNext .escapeZ n b :=
    fun b _ n hn => by simpa [hpre, storesNext] using hn
  rw [hdec] at hparse ⊢
  rw [← List.cons_append, feed_snoc, feed_collecting _ s .escapeZ hstores,
    after_escapeZ_last s _ last pre cid len hw hpre (parseHexCid_hexU cid) hparse]
  rfl

/-- Field 1 is at most 16 characters, none of them SP (41 R196). -/
theorem feed_field1 (s : State) (cid : Cid) (ip : IPv4) (hw : s.scratch.wf = true) :
    feed (hexU cid :: dotted ip ++ [chSP]) (s.collecting .escapeY1 []) =
      (s.withField1 (hexU cid :: dotted ip) cid ip).collecting .escapeY2 [] := by
  obtain ⟨hmin, hmax⟩ := length_dotted ip
  have hstores : ∀ b ∈ hexU cid :: dotted ip, ∀ n < (hexU cid :: dotted ip).length, storesNext .escapeY1 n b := by
    intro b hb n hn
    rw [List.length_cons] at hn
    refine ⟨by rw [scratchSize]; omega, ?_⟩
    rcases List.mem_cons.1 hb with rfl | hb
    · exact hexU_ne_SP cid
    · exact ne_SP_of_mem_dotted ip b hb
  rw [feed_snoc, feed_collecting _ s .escapeY1 hstores]
  exact after_escapeY1_sp s _ _ _ _ hw (List.ne_nil_of_length_pos (by omega)) (parseHexCid_hexU cid)
    (parseFullIp_dotted ip)

/-- Field 2 is at most 5 characters, none of them HT (41 R197). -/
theorem feed_field2 (s : State) (port : Half) (hw : s.scratch.wf = true) :
    feed (decN port.toNat ++ [chHT]) (s.collecting .escapeY2 []) =
      (s.withField2 (decN port.toNat) port).collecting .escapeY3 [] := by
  have hstores : ∀ b ∈ decN port.toNat, ∀ n < (decN port.toNat).length, storesNext .escapeY2 n b := by
    intro b hb n hn
    refine ⟨Nat.lt_of_lt_of_le hn (length_decN port.toNat).2, ?_⟩
    rintro rfl
    exact absurd (isDec_of_mem_decN _ port.isLt _ hb) (by decide)
  rw [feed_snoc, feed_collecting _ s .escapeY2 hstores]
  exact after_escapeY2_ht s _ _ hw (decN_ne_nil _) (parseDec16_decN port)

/-- Field 3 is four characters (41 R198). -/
theorem feed_field3 (s : State) (len : Half) (hw : s.scratch.wf = true) (hlen : len.toNat < 10000) :
    feed (dec4 len.toNat) (s.collecting .escapeY3 []) =
      (acceptHeader ⟨s.yCid, len, true, s.yIp, s.yPort⟩ (s.collecting .escapeY3 (dec4 len.toNat))).respond
        (.rx .absorbed) := by
  have hparse := parseDec16_dec4 len hlen
  obtain ⟨pre, last, hdec, hpre⟩ := dec4_eq_snoc len.toNat hlen
  have hstores : ∀ b ∈ pre, ∀ n < pre.length, storesNext .escapeY3 n b :=
    fun b _ n hn => by simpa [hpre, storesNext] using hn
  rw [hdec] at hparse ⊢
  rw [feed_snoc, feed_collecting _ s .escapeY3 hstores]
  exact after_escapeY3_last s last pre len hw hpre hparse

/-! ## A header in its wire form (41 R193, R196 to R198) -/

/-- The state differs in the registers that a header is collected in, and in the last result. -/
def collectOnly (s t : State) : Prop :=
  ∃ (rx : RxState) (sc : Memory) (n : Nat) (cid : Cid) (ip : IPv4) (port : Half) (r : Option Response),
    t = { s with rxState := rx, scratch := sc, scratchLen := n, yCid := cid, yIp := ip, yPort := port, result := r }

theorem plainIsBare_eq (h : FrameHeader) (hbare : plainIsBare h) (hu : h.udp = false) :
    ⟨h.cid, h.length, false, IPv4.zero, 0⟩ = h := by
  obtain ⟨hip, hport⟩ := hbare hu
  rw [← hu, ← hip, ← hport]

theorem feed_plainHeader (h : FrameHeader) (s : State) (hd : lettersDiffer s.cfg) (hidle : s.rxState = .idle)
    (hw : s.scratch.wf = true) (hu : h.udp = false) (hbare : plainIsBare h) (hlen : h.length.toNat < 10000) :
    ∃ t, collectOnly s t ∧ feed (encodeRxHeader s.cfg h) s = (acceptHeader h t).respond (.rx .absorbed) := by
  have hwire : encodeRxHeader s.cfg h =
      [s.cfg.escChar, s.cfg.introZ] ++ (hexU h.cid :: dec4 h.length.toNat) := by simp [encodeRxHeader, hu]
  refine ⟨s.collecting .escapeZ (hexU h.cid :: dec4 h.length.toNat), ⟨_, _, _, _, _, _, _, rfl⟩, ?_⟩
  rw [hwire, feed_append, (feed_introducer s hd hidle).1, feed_bulkFields s h.cid h.length hw hlen,
    plainIsBare_eq h hbare hu]

theorem feed_udpHeader (h : FrameHeader) (s : State) (hd : lettersDiffer s.cfg) (hidle : s.rxState = .idle)
    (hw : s.scratch.wf = true) (hu : h.udp = true) (hlen : h.length.toNat < 10000) :
    ∃ t, collectOnly s t ∧ feed (encodeRxHeader s.cfg h) s = (acceptHeader h t).respond (.rx .absorbed) := by
  have hwire : encodeRxHeader s.cfg h = [s.cfg.escChar, s.cfg.introY] ++ ((hexU h.cid :: dotted h.ip ++ [chSP])
      ++ ((decN h.port.toNat ++ [chHT]) ++ dec4 h.length.toNat)) := by simp [encodeRxHeader, hu]
  have hw1 := s.withField1_scratch_wf (hexU h.cid :: dotted h.ip) h.cid h.ip hw
  have hw2 := State.withField2_scratch_wf _ (decN h.port.toNat) h.port hw1
  have hread : (⟨h.cid, h.length, true, h.ip, h.port⟩ : FrameHeader) = h := by rw [← hu]
  refine ⟨((s.withField1 (hexU h.cid :: dotted h.ip) h.cid h.ip).withField2 (decN h.port.toNat) h.port).collecting
    .escapeY3 (dec4 h.length.toNat), ⟨_, _, _, _, _, _, _, rfl⟩, ?_⟩
  rw [hwire, feed_append, feed_append, feed_append, (feed_introducer s hd hidle).2.2, feed_field1 s h.cid h.ip hw,
    feed_field2 _ h.port hw1, feed_field3 _ h.length hw2 hlen]
  exact congrArg (fun x => (acceptHeader x _).respond (.rx .absorbed)) hread

/-- A frame header in its wire form is accepted as that header, after its fields have been collected. -/
theorem feed_encodeRxHeader (h : FrameHeader) (s : State) (hd : lettersDiffer s.cfg) (hidle : s.rxState = .idle)
    (hw : s.scratch.wf = true) (hbare : plainIsBare h) (hlen : h.length.toNat < 10000) :
    ∃ t, collectOnly s t ∧ feed (encodeRxHeader s.cfg h) s = (acceptHeader h t).respond (.rx .absorbed) := by
  cases hu : h.udp with
  | false => exact feed_plainHeader h s hd hidle hw hu hbare hlen
  | true => exact feed_udpHeader h s hd hidle hw hu hlen

/-! ## The record of a header (20 R73) read back (42 R244, R247) -/

theorem halfOf_bytes (v : Half) : halfOf (lowByte v) (highByte v) = v :=
  BitVec.extractLsb'_append_extractLsb' (w := 8) (len := 8)

/-- The first byte of a record tells the CID and whether the record is a UDP-server one. -/
theorem headerByte0_fields (h : FrameHeader) :
    Fin.ofNat 16 (headerByte0 h).toNat = h.cid ∧ recordUdp (headerByte0 h) = h.udp := by
  unfold headerByte0 recordUdp
  generalize h.cid = c
  generalize h.udp = u
  revert c u
  decide

/-- Every record starts with the byte that tells its size. -/
theorem serialize_head (h : FrameHeader) : ∃ rest, serialize h = headerByte0 h :: rest := by
  unfold serialize
  split <;> exact ⟨_, rfl⟩

theorem deserialize_serialize (h : FrameHeader) (hbare : plainIsBare h) : deserialize (serialize h) = h := by
  obtain ⟨hcid, hudp⟩ := headerByte0_fields h
  cases hu : h.udp with
  | false =>
    have hserial : serialize h = [headerByte0 h, lowByte h.length, highByte h.length] := by simp [serialize, hu]
    rw [hu] at hudp
    simp only [deserialize, hserial, List.getD_cons_zero, List.getD_cons_succ, hudp, hcid, halfOf_bytes,
      Bool.false_eq_true, if_false]
    exact plainIsBare_eq h hbare hu
  | true =>
    have hserial : serialize h = [headerByte0 h, lowByte h.length, highByte h.length, h.ip.o1, h.ip.o2, h.ip.o3,
      h.ip.o4, lowByte h.port, highByte h.port] := by simp [serialize, hu, IPv4.octets]
    rw [hu] at hudp
    simp only [deserialize, hserial, List.getD_cons_zero, List.getD_cons_succ, hudp, hcid, halfOf_bytes, if_true]
    rw [← hu]

/-- POP_HEADER at the index where PUSH_HEADER found the writing cursor makes the same jump and reads the same record. -/
theorem popHeader_of_record (h : FrameHeader) (s : State) (hbare : plainIsBare h)
    (hrec : s.ring.readN (recordStart s.cfg s.tailIdx) (headerSize h.udp) = serialize h) :
    popHeader s =
      { s with tail := h, tailIdx := (recordStart s.cfg s.tailIdx + headerSize h.udp) % s.cfg.ringCap } := by
  have hbyte0 : s.ring.read (recordStart s.cfg s.tailIdx) = headerByte0 h := by
    obtain ⟨rest, hserial⟩ := serialize_head h
    obtain ⟨n, hn⟩ : ∃ n, headerSize h.udp = n + 1 := by cases h.udp <;> exact ⟨_, rfl⟩
    rw [hserial, hn, Memory.readN] at hrec
    exact (List.cons.inj hrec).1
  have hdef : popHeader s = { s with
      tail := recordAt s.ring (recordStart s.cfg s.tailIdx)
      tailIdx := (recordStart s.cfg s.tailIdx + headerSize (recordUdp (s.ring.read (recordStart s.cfg s.tailIdx))))
        % s.cfg.ringCap } := rfl
  rw [hdef, recordAt, hbyte0, (headerByte0_fields h).2, hrec, deserialize_serialize h hbare]

/-- What PUSH_HEADER writes (42 R244): the record at its start, and the writing cursor past it. -/
theorem pushHeader_record (h : FrameHeader) (s : State) (hi : s.headIdx < s.cfg.ringCap) (hw : s.ring.wf = true) :
    (pushHeader h s).ring.readN (recordStart s.cfg s.headIdx) (headerSize h.udp) = serialize h
      ∧ (pushHeader h s).headIdx = (recordStart s.cfg s.headIdx + headerSize h.udp) % s.cfg.ringCap := by
  obtain ⟨_, _, _, _, hdrop⟩ := dropOnly_dropOldest (deadCells s.cfg s.headIdx + headerSize h.udp) s
  rw [pushHeader_eq, hdrop]
  dsimp only
  rw [jump_eq s.cfg s.headIdx hi, ← length_serialize]
  exact ⟨Memory.readN_writeList _ _ _ hw, rfl⟩

theorem exec_popHeader_of_record (h : FrameHeader) (s : State) (hbare : plainIsBare h)
    (hrec : s.ring.readN (recordStart s.cfg s.tailIdx) (headerSize h.udp) = serialize h) :
    exec .popHeader s = .next { s with
      tail := h
      tailIdx := (recordStart s.cfg s.tailIdx + headerSize h.udp) % s.cfg.ringCap
      result := some (.header h) } := by
  have hexec : exec .popHeader s = .next ((popHeader s).respond (.header (popHeader s).tail)) := rfl
  rw [hexec, popHeader_of_record h s hbare hrec]
  rfl

/-! ## The statement -/

theorem acceptHeader_head (h : FrameHeader) (s : State) : (acceptHeader h s).head = h := by
  rw [acceptHeader, pushHeader_head]

theorem acceptHeader_cfg (h : FrameHeader) (s : State) : (acceptHeader h s).cfg = s.cfg := by
  obtain ⟨_, _, _, _, _, _, _, _, _, _, _, _, _, _, _, _, _, _, _, _, _, _, _, he⟩ := receiveOnly_acceptHeader h s
  rw [he]

/-- POP_HEADER at the writing cursor that an accepted header found reads that header, and ends where PUSH_HEADER did. -/
theorem exec_popHeader_acceptHeader (h : FrameHeader) (s : State) (r : Response) (hbare : plainIsBare h)
    (hi : s.headIdx < s.cfg.ringCap) (hw : s.ring.wf = true) :
    let t := (acceptHeader h s).respond r
    exec .popHeader { t with tailIdx := s.headIdx } =
      .next { t with tail := h, tailIdx := t.headIdx, result := some (.header h) } := by
  intro t
  obtain ⟨hrecord, hnext⟩ := pushHeader_record h { s with head := h } hi hw
  have hcfg : t.cfg = s.cfg := acceptHeader_cfg h s
  have hhead : t.headIdx = (recordStart s.cfg s.headIdx + headerSize h.udp) % s.cfg.ringCap := hnext
  rw [exec_popHeader_of_record h { t with tailIdx := s.headIdx } hbare (by rw [hcfg]; exact hrecord), hhead, hcfg]

/-- Settles O26: the wire form is accepted as the header (R193, R198), and the record pushed for it is the one that
POP_HEADER reads at the old writing cursor. -/
theorem headerRoundTrip : Obligations.HeaderRoundTrip := by
  intro h s hinv hd hidle hbare hlen t
  obtain ⟨u, ⟨_, _, _, _, _, _, _, hu⟩, hfeed⟩ :=
    feed_encodeRxHeader h s hd hidle hinv.scratch_form hbare (by omega)
  have ht : t = (acceptHeader h u).respond (.rx .absorbed) := hfeed
  have hcursor : u.headIdx = s.headIdx := by rw [hu]
  have hpop := exec_popHeader_acceptHeader h u (.rx .absorbed) hbare (by rw [hu]; exact hinv.head_lt)
    (by rw [hu]; exact hinv.ring_form)
  rw [hcursor] at hpop
  rw [ht]
  exact ⟨acceptHeader_head h u, rfl, hpop⟩

end Sys2Proof.Machine
end

section
/-! PROOFS. The ring's cells and cursors (42_ring_buffer.md): which cells PUSH_HEADER and PUSH_BYTE write, which bytes of
the tail frame POP_BYTE takes and AVAILABLE_BYTES counts, and how POP_HEADER keeps the structure of R242 while ADVANCE
empties the ring of exhausted records; the statements of R244 to R246, R248 to R250 and R253. -/

namespace Sys2Proof.Machine

/-! ## Cursor arithmetic (42 R240) -/

/-- A cursor wraps once at most (42 R240). -/
theorem mod_eq_of_lt_two_mul {a c : Nat} (h : a < 2 * c) : a % c = if a < c then a else a - c := by
  split
  · next hlt => exact Nat.mod_eq_of_lt hlt
  · next hge => rw [Nat.mod_eq_sub_mod (by omega), Nat.mod_eq_of_lt (by omega)]

/-- Moving the second of two cursors towards the first shortens the distance between them. -/
theorem cursor_distance_add {head tail c k : Nat} (hhead : head < c) (htail : tail < c)
    (hk : k ≤ (head + c - tail) % c) : (head + c - (tail + k) % c) % c = (head + c - tail) % c - k := by
  have hlt : (tail + k) % c < c := Nat.mod_lt _ (by omega)
  have hklt : k < c := Nat.lt_of_le_of_lt hk (Nat.mod_lt _ (by omega))
  have hmoved := mod_eq_of_lt_two_mul (a := tail + k) (c := c) (by omega)
  have hbefore := mod_eq_of_lt_two_mul (a := head + c - tail) (c := c) (by omega)
  have hafter := mod_eq_of_lt_two_mul (a := head + c - (tail + k) % c) (c := c) (by omega)
  split_ifs at hmoved hbefore hafter <;> omega

theorem State.Inv.used_lt {s : State} (h : s.Inv) : s.used < s.cfg.ringCap :=
  Nat.mod_lt _ (by have := h.cap; omega)

/-- The reading cursor moved on by `k` occupied cells leaves `k` fewer of them. -/
theorem State.Inv.used_moveTail {s : State} (h : s.Inv) (k : Nat) (hk : k ≤ s.used) (t : FrameHeader) :
    State.used { s with tailIdx := (s.tailIdx + k) % s.cfg.ringCap, tail := t } = s.used - k :=
  cursor_distance_add h.head_lt h.tail_lt hk

theorem length_toNat_eq_zero (v : Half) : v.toNat = 0 ↔ v = 0 := by
  rw [BitVec.toNat_eq]; rfl

/-! ## Bytes of the tail frame (42 R248 to R250) -/

theorem exec_peekByte (s : State) : exec .peekByte s = .next (s.respond (.byte (peekByte s))) := rfl

theorem exec_popByte (s : State) : exec .popByte s = .next ((popByte s).2.respond (.byte (popByte s).1)) := rfl

theorem after_popByte (s : State) : after .popByte s = (popByte s).2.respond (.byte (popByte s).1) := rfl

theorem exec_availableBytes (s : State) :
    exec .availableBytes s = .next (s.respond (.count (availableBytes s))) := rfl

theorem State.Inv.after_popByte {s : State} (h : s.Inv) : (after .popByte s).Inv := h.popByte.respond _

theorem popByte_none (s : State) (h : s.tail.length.toNat = 0 ∨ s.used = 0) : popByte s = (none, s) := by
  rw [length_toNat_eq_zero] at h
  rw [popByte, if_pos h]

theorem popByte_some (s : State) (h : ¬ (s.tail.length.toNat = 0 ∨ s.used = 0)) : popByte s =
    (some (s.ring.read s.tailIdx), { s with
      tailIdx := (s.tailIdx + 1) % s.cfg.ringCap
      tail := { s.tail with length := s.tail.length - 1 } }) := by
  rw [length_toNat_eq_zero] at h
  rw [popByte, if_neg h]

theorem availableBytes_eq (s : State) : availableBytes s = min s.tail.length.toNat s.used := by
  unfold availableBytes
  split
  · next hz => rw [hz]; simp
  · rfl

/-- The tail frame without its next byte has one byte fewer available. -/
theorem State.Inv.availableBytes_moveTail {s : State} (h : s.Inv) (ha : 0 < availableBytes s) :
    availableBytes { s with
      tailIdx := (s.tailIdx + 1) % s.cfg.ringCap
      tail := { s.tail with length := s.tail.length - 1 } } + 1 = availableBytes s := by
  rw [availableBytes_eq] at ha
  have hlen : (s.tail.length - 1).toNat = s.tail.length.toNat - 1 := by
    have hpos : 1 ≤ s.tail.length.toNat := by omega
    bv_omega
  rw [availableBytes_eq, availableBytes_eq, h.used_moveTail 1 (by omega)]
  dsimp only
  rw [hlen]
  omega

/-- Where at least one byte is available, POP_BYTE answers it, and one byte fewer is available afterwards. -/
theorem State.Inv.after_popByte_available {s : State} (h : s.Inv) (ha : 0 < availableBytes s) :
    (after .popByte s).result = some (.byte (some (s.ring.read s.tailIdx)))
      ∧ (after .popByte s).tailIdx = (s.tailIdx + 1) % s.cfg.ringCap
      ∧ (after .popByte s).ring = s.ring ∧ (after .popByte s).cfg = s.cfg
      ∧ availableBytes (after .popByte s) + 1 = availableBytes s := by
  have hless := h.availableBytes_moveTail ha
  rw [availableBytes_eq] at ha
  rw [Machine.after_popByte, popByte_some s (by omega)]
  exact ⟨rfl, rfl, rfl, rfl, hless⟩

/-- POP_BYTE in a row returns the available bytes in order. -/
theorem popByte_result_of_lt_available (k : Nat) : ∀ {s : State}, s.Inv → k < availableBytes s →
    (after .popByte (afterTimes .popByte k s)).result =
      some (.byte (some (s.ring.read ((s.tailIdx + k) % s.cfg.ringCap)))) := by
  induction k with
  | zero =>
    intro s h hk
    rw [Nat.add_zero, Nat.mod_eq_of_lt h.tail_lt]
    exact (h.after_popByte_available hk).1
  | succ k ih =>
    intro s h hk
    obtain ⟨-, htail, hring, hcfg, havail⟩ := h.after_popByte_available (by omega)
    rw [afterTimes, ih h.after_popByte (by omega), htail, hring, hcfg, Nat.mod_add_mod, Nat.add_assoc, Nat.add_comm 1 k]

/-- After the available bytes POP_BYTE returns none. -/
theorem popByte_result_of_eq_available (k : Nat) : ∀ {s : State}, s.Inv → availableBytes s = k →
    (after .popByte (afterTimes .popByte k s)).result = some (.byte none) := by
  induction k with
  | zero =>
    intro s _ hk
    rw [availableBytes_eq] at hk
    rw [afterTimes, Machine.after_popByte, popByte_none s (by omega)]
    rfl
  | succ k ih =>
    intro s h hk
    obtain ⟨-, -, -, -, havail⟩ := h.after_popByte_available (by omega)
    exact ih h.after_popByte (by omega)

/-- Settles O30: PEEK_BYTE and POP_BYTE by the branches of their definitions, and the count by induction over it. -/
theorem tailFrameBytes : Obligations.TailFrameBytes := by
  refine ⟨fun s => ?_, fun s => ?_, fun s => ⟨?_, fun h => ?_⟩⟩
  · rw [exec_peekByte, peekByte]
    simp only [Nat.pos_iff_ne_zero, ne_eq, length_toNat_eq_zero]
    rfl
  · change _ = if s.tail.length.toNat = 0 ∨ s.used = 0 then _ else _
    rw [exec_popByte]
    split
    · next hnone => rw [popByte_none s hnone]; rfl
    · next hsome => rw [popByte_some s hsome]; rfl
  · rw [exec_availableBytes, availableBytes_eq]
    rfl
  · have hcount := availableBytes_eq s
    exact ⟨fun k hk => popByte_result_of_lt_available k h (hcount ▸ hk), popByte_result_of_eq_available _ h hcount⟩

/-! ## POP_HEADER on the structure of the ring (42 R242, R247) -/

theorem recordAt_udp (ring : Memory) (j : Nat) : (recordAt ring j).udp = recordUdp (ring.read j) := by
  have hbyte0 : ∀ n, (ring.readN j (n + 1)).getD 0 0 = ring.read j := fun _ => rfl
  obtain ⟨n, hn⟩ : ∃ n, headerSize (recordUdp (ring.read j)) = n + 1 := by
    cases recordUdp (ring.read j) <;> exact ⟨_, rfl⟩
  rw [recordAt, hn, deserialize]
  simp only [hbyte0]
  split <;> rfl

/-- POP_HEADER in the words of the ring's structure. -/
theorem popHeader_eq_recordAt (s : State) : popHeader s = { s with
    tail := recordAt s.ring (recordStart s.cfg s.tailIdx)
    tailIdx := (recordStart s.cfg s.tailIdx + headerSize (recordAt s.ring (recordStart s.cfg s.tailIdx)).udp)
      % s.cfg.ringCap } := by
  rw [recordAt_udp]
  rfl

/-- The record after an index and its dead cells ends where its start says, modulo the ring. -/
theorem add_deadCells_mod (cfg : Config) (i n : Nat) (hi : i < cfg.ringCap) :
    (i + (deadCells cfg i + n)) % cfg.ringCap = (recordStart cfg i + n) % cfg.ringCap := by
  unfold deadCells recordStart
  split
  · rw [show i + (cfg.ringCap - i + n) = cfg.ringCap + n by omega, Nat.add_mod_left, Nat.zero_add]
  · rw [Nat.zero_add]

/-- A non-empty run of records starts with a record, whole in the ring; its payload and the records after it are there
too, or it is the frame in flight. -/
theorem Records.first {cfg : Config} {ring : Memory} {missing i u : Nat} (hr : Records cfg ring missing i u)
    (hu : 0 < u) :
    let h := recordAt ring (recordStart cfg i)
    let cells := deadCells cfg i + headerSize h.udp
    cells ≤ u
      ∧ ((h.length.toNat ≤ u - cells ∧ Records cfg ring missing
            ((recordStart cfg i + headerSize h.udp + h.length.toNat) % cfg.ringCap) (u - cells - h.length.toNat))
        ∨ (u - cells < h.length.toNat ∧ h.length.toNat = u - cells + missing)) := by
  cases hr with
  | none => omega
  | whole _ _ h at_start fits rest =>
    subst at_start
    refine ⟨by omega, .inl ⟨by omega, ?_⟩⟩
    rw [Nat.sub_sub]
    exact rest
  | partly _ _ h at_start fits in_flight arrived =>
    subst at_start
    exact ⟨fits, .inr ⟨by omega, arrived.symm⟩⟩

/-- With no live tail frame and something buffered, POP_HEADER keeps the structure of the ring and frees cells (42 R242,
R247). -/
theorem State.RingOk.popHeader {s : State} (hr : s.RingOk) (h : s.Inv) (hz : s.tail.length = 0) (hu : 0 < s.used) :
    (popHeader s).RingOk ∧ (popHeader s).used < s.used := by
  have hz' := (length_toNat_eq_zero _).2 hz
  have hrecords : Records s.cfg s.ring s.missing s.tailIdx s.used := by
    obtain ⟨-, hr⟩ | ⟨hlt, -⟩ := hr
    · rwa [hz', Nat.add_zero, Nat.mod_eq_of_lt h.tail_lt] at hr
    · omega
  obtain ⟨hcells, hnext⟩ := hrecords.first hu
  have hsize : 0 < headerSize (recordAt s.ring (recordStart s.cfg s.tailIdx)).udp := by
    cases (recordAt s.ring (recordStart s.cfg s.tailIdx)).udp <;> decide
  have hused := h.used_moveTail _ hcells (recordAt s.ring (recordStart s.cfg s.tailIdx))
  rw [add_deadCells_mod _ _ _ h.tail_lt] at hused
  rw [popHeader_eq_recordAt]
  refine ⟨?_, by rw [hused]; omega⟩
  rw [State.RingOk, hused]
  change (_ ∧ Records s.cfg s.ring s.missing ((_ % s.cfg.ringCap + _) % s.cfg.ringCap) _) ∨ (_ ∧ _ = _ + s.missing)
  rwa [Nat.mod_add_mod]

/-! ## ADVANCE (42 R253) -/

/-- Where ADVANCE stops: at a live tail frame or an empty ring (42 R253). -/
def State.advanced (s : State) : Prop := ¬ (s.tail.length = 0 ∧ 0 < s.used)

theorem advanceLoop_of_advanced (k : Nat) (s : State) (h : s.advanced) : advanceLoop k s = s := by
  cases k with
  | zero => rfl
  | succ k => exact if_neg h

theorem advanceLoop_succ (k : Nat) (s : State) (h : ¬ s.advanced) :
    advanceLoop (k + 1) s = advanceLoop k (popHeader s) := if_pos (not_not.1 h)

/-- As many turns as cells are occupied are enough for ADVANCE, and more turns change nothing (log 11). -/
theorem advanceLoop_of_used_le (k : Nat) : ∀ {s : State}, s.Inv → s.RingOk → s.used ≤ k →
    (advanceLoop k s).advanced ∧ advanceLoop (k + 1) s = advanceLoop k s := by
  induction k with
  | zero =>
    intro s _ _ hk
    have hdone : s.advanced := fun hgo => by omega
    exact ⟨hdone, advanceLoop_of_advanced 1 s hdone⟩
  | succ k ih =>
    intro s h hr hk
    by_cases hdone : s.advanced
    · rw [advanceLoop_of_advanced _ s hdone, advanceLoop_of_advanced _ s hdone]
      exact ⟨hdone, rfl⟩
    · obtain ⟨hz, hu⟩ := not_not.1 hdone
      obtain ⟨hr', hless⟩ := hr.popHeader h hz hu
      rw [advanceLoop_succ _ s hdone, advanceLoop_succ _ s hdone]
      exact ih h.popHeader hr' (by omega)

theorem State.Inv.advance_advanced {s : State} (h : s.Inv) (hr : s.RingOk) : (Machine.advance s).advanced :=
  (advanceLoop_of_used_le _ h hr h.used_lt.le).1

/-- ADVANCE is the loop of R253: its bound is never reached (log 11). -/
theorem advance_of_not_advanced (s : State) (h : s.Inv) (hr : s.RingOk) (hgo : ¬ s.advanced) :
    advance s = advance (popHeader s) := by
  obtain ⟨hz, hu⟩ := not_not.1 hgo
  obtain ⟨hr', hless⟩ := hr.popHeader h hz hu
  have hlt := h.used_lt
  obtain ⟨k, hk⟩ : ∃ k, s.cfg.ringCap = k + 1 := ⟨s.cfg.ringCap - 1, by omega⟩
  change advanceLoop s.cfg.ringCap s = advanceLoop s.cfg.ringCap (popHeader s)
  rw [hk, advanceLoop_succ k s hgo, (advanceLoop_of_used_le k h.popHeader hr' (by omega)).2]

/-- ADVANCE neither reads nor writes the last result. -/
theorem advanceLoop_respond (k : Nat) (r : Response) (s : State) :
    advanceLoop k (s.respond r) = (advanceLoop k s).respond r := by
  induction k generalizing s with
  | zero => rfl
  | succ k ih =>
    by_cases hdone : s.advanced
    · rw [advanceLoop_of_advanced _ s hdone, advanceLoop_of_advanced _ (s.respond r) hdone]
    · rw [advanceLoop_succ k s hdone, advanceLoop_succ k (s.respond r) hdone, ← ih]
      rfl

/-- ADVANCE moves the reading cursor and the tail frame alone. -/
theorem advanceLoop_frame (k : Nat) (s : State) :
    ∃ (i : Nat) (t : FrameHeader), advanceLoop k s = { s with tailIdx := i, tail := t } := by
  induction k generalizing s with
  | zero => exact ⟨_, _, rfl⟩
  | succ k ih =>
    by_cases hdone : s.advanced
    · exact ⟨_, _, advanceLoop_of_advanced _ s hdone⟩
    · obtain ⟨i, t, hpop⟩ := ih (popHeader s)
      exact ⟨i, t, by rw [advanceLoop_succ k s hdone, hpop]; rfl⟩

theorem exec_advance (s : State) : exec .advance s = .next ((advance s).respond .none) := rfl

/-- After POP_HEADER, ADVANCE goes on as it does from the state that POP_HEADER leaves, whatever the last result. -/
theorem exec_advance_after_popHeader (s : State) :
    exec .advance (after .popHeader s) = .next ((advance (popHeader s)).respond .none) := by
  have hafter : after .popHeader s = (popHeader s).respond (.header (popHeader s).tail) := rfl
  rw [hafter, exec_advance, advance, advanceLoop_respond]
  rfl

/-- Settles O32: POP_HEADER keeps the structure of the ring and frees cells, so the loop ends by itself. -/
theorem advanceFindsTheNextFrame : Obligations.AdvanceFindsTheNextFrame := by
  intro s h hr
  refine ⟨?_, (advance s).respond .none, rfl, ?_, ?_⟩
  · simp only [length_toNat_eq_zero]
    rw [exec_advance_after_popHeader, exec_advance]
    split
    · next hgo => rw [advance_of_not_advanced s h hr (not_not.2 hgo)]
    · next hdone => rw [advance, advanceLoop_of_advanced _ s hdone]; rfl
  · have hdone : (advance s).advanced := h.advance_advanced hr
    rw [State.advanced, ← length_toNat_eq_zero] at hdone
    change 0 < (advance s).tail.length.toNat ∨ (advance s).used = 0
    omega
  · obtain ⟨i, t, hframe⟩ := advanceLoop_frame s.cfg.ringCap s
    rw [advance, hframe]
    rfl

/-! ## PUSH_HEADER and PUSH_BYTE (42 R244 to R246) -/

theorem after_dropOldest (n : Nat) (hn : n < 256) (s : State) :
    after (.dropOldest (BitVec.ofNat 8 n)) s = (dropOldest n s).respond .none := by
  have hafter : after (.dropOldest (BitVec.ofNat 8 n)) s =
    (dropOldest (BitVec.ofNat 8 n).toNat s).respond .none := rfl
  rw [hafter, BitVec.toNat_ofNat, Nat.mod_eq_of_lt hn]

/-- The writer's jump depends on the writing cursor alone (42 R245). -/
theorem deadCells_eq (cfg : Config) (i : Nat) :
    deadCells cfg i = if cfg.ringCap - i < 9 then cfg.ringCap - i else 0 :=
  if_congr decide_eq_true_iff rfl rfl

theorem deadCells_le (cfg : Config) (i : Nat) : deadCells cfg i ≤ 8 := by
  rw [deadCells_eq]
  split <;> omega

/-- The bytes of a record (20 R73): a plain one is the first three cells of a UDP-server one. -/
theorem serialize_eq_take (h : FrameHeader) : serialize h =
    List.take (headerSize h.udp) [BitVec.ofNat 8 (h.cid.val + if h.udp = true then 128 else 0),
      BitVec.ofNat 8 h.length.toNat, BitVec.ofNat 8 (h.length.toNat / 256), h.ip.o1, h.ip.o2, h.ip.o3, h.ip.o4,
      BitVec.ofNat 8 h.port.toNat, BitVec.ofNat 8 (h.port.toNat / 256)] := by
  have hlow : ∀ v : Half, lowByte v = BitVec.ofNat 8 v.toNat := fun v => by
    apply BitVec.eq_of_toNat_eq; simp [lowByte]
  have hhigh : ∀ v : Half, highByte v = BitVec.ofNat 8 (v.toNat / 256) := fun v => by
    apply BitVec.eq_of_toNat_eq; simp [highByte, Nat.shiftRight_eq_div_pow]
  rw [← hlow, ← hlow, ← hhigh, ← hhigh]
  cases hu : h.udp <;> simp [serialize, headerByte0, headerSize, hu, hdrPlain, hdrMax, IPv4.octets]

/-- PUSH_HEADER writes its record at the start that the writing cursor gives, on top of what DROP_OLDEST leaves. -/
theorem exec_pushHeader (h : FrameHeader) (s : State) (hi : s.headIdx < s.cfg.ringCap) :
    exec (.pushHeader h) s = .next
      { after (.dropOldest (BitVec.ofNat 8 (deadCells s.cfg s.headIdx + headerSize h.udp))) s with
        ring := s.ring.writeList (recordStart s.cfg s.headIdx) (serialize h)
        headIdx := (recordStart s.cfg s.headIdx + headerSize h.udp) % s.cfg.ringCap
        result := some .none } := by
  have hsize : headerSize h.udp ≤ 9 := headerSize_le h.udp
  have hdead := deadCells_le s.cfg s.headIdx
  have hexec : exec (.pushHeader h) s = .next ((pushHeader h s).respond .none) := rfl
  rw [hexec, after_dropOldest _ (by omega), pushHeader_eq]
  obtain ⟨_, _, _, _, hdrop⟩ := dropOnly_dropOldest (deadCells s.cfg s.headIdx + headerSize h.udp) s
  rw [hdrop]
  dsimp only
  rw [jump_eq s.cfg s.headIdx hi]
  rfl

/-- PUSH_BYTE writes the cell at the writing cursor, on top of what DROP_OLDEST leaves. -/
theorem exec_pushByte (b : Byte) (s : State) :
    exec (.pushByte b) s = .next { after (.dropOldest 1) s with
      ring := s.ring.write s.headIdx b, headIdx := (s.headIdx + 1) % s.cfg.ringCap, result := some .none } := by
  have hexec : exec (.pushByte b) s = .next ((pushByte b s).respond .none) := rfl
  have hafter : after (.dropOldest 1) s = (dropOldest 1 s).respond .none := after_dropOldest 1 (by omega) s
  rw [hexec, hafter, pushByte]
  obtain ⟨_, _, _, _, hdrop⟩ := dropOnly_dropOldest 1 s
  rw [hdrop]
  rfl

/-- Settles O28: the cells written are those of `Memory.writeList` at the record's start and of `Memory.write` at the
writing cursor, on top of the room that DROP_OLDEST made. -/
theorem pushesWriteTheRing : Obligations.PushesWriteTheRing := by
  refine ⟨fun h s hinv => ?_, fun b s hinv => ?_⟩
  · intro size skip i u record
    have hskip : deadCells s.cfg s.headIdx = skip := deadCells_eq _ _
    have hstart : recordStart s.cfg s.headIdx = i := by rw [← jump_eq s.cfg s.headIdx hinv.head_lt, hskip]
    have hserial : serialize h = record.take size := serialize_eq_take h
    have hlen : (serialize h).length = size := length_serialize h
    have hexec := exec_pushHeader h s hinv.head_lt
    have hfits := recordStart_fits s.cfg s.headIdx h.udp hinv.cap hinv.head_lt
    rw [hstart] at hexec hfits
    rw [hskip] at hexec
    refine ⟨_, hexec, hfits, fun k hk => ?_, fun a ha => ?_⟩
    · rw [Memory.read_writeList _ _ _ _ hinv.ring_form, hlen, if_pos (by omega), Nat.add_sub_cancel_left, hserial,
        List.getD_eq_getElem?_getD, List.getD_eq_getElem?_getD, List.getElem?_take_of_lt hk]
    · rw [Memory.read_writeList _ _ _ _ hinv.ring_form, hlen, if_neg (by omega)]
  · exact ⟨_, exec_pushByte b s, Memory.read_write_same _ _ _ hinv.ring_form,
      fun a ha => Memory.read_write_other _ _ _ _ hinv.ring_form ha.symm⟩

end Sys2Proof.Machine
end

section
/-! PROOFS. The correlator's lines (43_correlator.md): CLASSIFY_LINE as one rule for each way a line is read, RESP_STEP
as one rule for each kind of byte and line, and the statements of R296 and of R292, R293 and R304. -/

namespace Sys2Proof.Machine

/-! ## CLASSIFY_LINE (43 R295) -/

theorem exec_classifyLine (line : List Byte) (s : State) :
    exec (.classifyLine line) s = .next { s with result := some (.classified (classifyLine s.cfg line)) } := rfl

theorem classifyLine_textOK (cfg : Config) : classifyLine cfg textOK = .code cfg.okCode .success [] := if_pos rfl

section
variable {cfg : Config} {line rest : List Byte} {c : Nat} {r : RespRow}

/-- A code of the table followed by its number of arguments. -/
theorem classifyLine_eq_code {args : List Cid} (hne : line ≠ textOK) (hcode : classifyCode line = some (c, rest))
    (hrow : cfg.row c = some r) (hargs : classifyArgs r.argc rest = some args) :
    classifyLine cfg line = .code c r.name args := by
  simp only [classifyLine, if_neg hne, hcode, hrow, hargs]

/-- A code of the table followed by something other than its arguments. -/
theorem classifyLine_eq_unknown (hne : line ≠ textOK) (hcode : classifyCode line = some (c, rest))
    (hrow : cfg.row c = some r) (hargs : classifyArgs r.argc rest = none) : classifyLine cfg line = .unknown := by
  simp only [classifyLine, if_neg hne, hcode, hrow, hargs]

end

theorem Config.row_of_default {cfg : Config} (h : cfg.respTable = respTableDefault) (c : Nat) :
    cfg.row c = respTableDefault.find? (fun r => r.code == c) := by
  rw [Config.row, h]

/-- The default table has one row named SUCCESS, that of code 0. -/
theorem Config.okCode_of_default {cfg : Config} (h : cfg.respTable = respTableDefault) : cfg.okCode = 0 :=
  okCode_of_one cfg ⟨0, .success, 0⟩ (by rw [h]; rfl)

/-- Settles O34: each example is read by the rule for its kind of line, with the rows 0 and 18 of the default table. -/
theorem classifierExamples : Obligations.ClassifierExamples := by
  intro s htable
  have hrow0 : s.cfg.row 0 = some ⟨0, .success, 0⟩ := Config.row_of_default htable 0
  have hrow18 : s.cfg.row 18 = some ⟨18, .nwconnSuccess, 1⟩ := Config.row_of_default htable 18
  have hok : classifyLine s.cfg [0x4F, 0x4B] = .code 0 .success [] :=
    (classifyLine_textOK s.cfg).trans (by rw [Config.okCode_of_default htable])
  refine ⟨?zero, ?zeroExtra, ?ok, ?eighteen⟩
  case zero => rw [exec_classifyLine, classifyLine_eq_code (by decide) rfl hrow0 rfl]
  case zeroExtra => rw [exec_classifyLine, classifyLine_eq_unknown (by decide) rfl hrow0 rfl]
  case ok => rw [exec_classifyLine, hok]
  case eighteen => rw [exec_classifyLine, classifyLine_eq_code (by decide) rfl hrow18 rfl]; rfl

/-! ## The line buffer (43 R292, R293) -/

/-- A re-termination byte goes to the end of the buffer, and the oldest byte makes room for it if the buffer is full. -/
theorem LineState.storeTerm_eq (c : Byte) {l : LineState} (hroom : l.buf.length ≤ l.cap) (hcap : 0 < l.cap) :
    l.storeTerm c = { l with
      buf := (l.buf ++ [c]).drop (l.buf.length + 1 - l.cap)
      start := l.start - (l.buf.length + 1 - l.cap)
      truncated := l.truncated || decide (l.cap < l.buf.length + 1) } := by
  unfold LineState.storeTerm
  by_cases hfull : l.buf.length = l.cap
  · have hone : l.buf.length + 1 - l.cap = 1 := by omega
    simp only [if_pos hfull, LineState.evict, hone, List.drop_append_of_le_length (show 1 ≤ l.buf.length by omega),
      decide_eq_true (show l.cap < l.buf.length + 1 by omega), Bool.or_true]
  · have hzero : l.buf.length + 1 - l.cap = 0 := by omega
    simp only [if_neg hfull, hzero, List.drop_zero, Nat.sub_zero,
      decide_eq_false (show ¬ l.cap < l.buf.length + 1 by omega), Bool.or_false]

/-- Two re-termination bytes: the newest bytes that the buffer has room for are kept. -/
theorem LineState.storeTerm_storeTerm (a b : Byte) {l : LineState} (hroom : l.buf.length ≤ l.cap) (hcap : 0 < l.cap) :
    (l.storeTerm a).storeTerm b = { l with
      buf := (l.buf ++ [a, b]).drop (l.buf.length + 2 - l.cap)
      start := l.start - (l.buf.length + 2 - l.cap)
      truncated := l.truncated || decide (l.cap < l.buf.length + 2) } := by
  have hlen : ((l.buf ++ [a]).drop (l.buf.length + 1 - l.cap)).length = min (l.buf.length + 1) l.cap := by
    rw [List.length_drop, List.length_append, List.length_singleton]
    omega
  have hevicted : l.buf.length + 1 - l.cap + (min (l.buf.length + 1) l.cap + 1 - l.cap) = l.buf.length + 2 - l.cap := by
    omega
  have hbuf : ((l.buf ++ [a]).drop (l.buf.length + 1 - l.cap) ++ [b]).drop (min (l.buf.length + 1) l.cap + 1 - l.cap) =
      (l.buf ++ [a, b]).drop (l.buf.length + 2 - l.cap) := by
    rw [← List.drop_append_of_le_length (by rw [List.length_append, List.length_singleton]; omega), List.drop_drop,
      hevicted, List.append_assoc]
    rfl
  have htruncated : (l.cap < l.buf.length + 1 ∨ l.cap < min (l.buf.length + 1) l.cap + 1) ↔
      l.cap < l.buf.length + 2 := by omega
  rw [storeTerm_eq a hroom hcap]
  refine (storeTerm_eq b ?room ?cap).trans ?fields
  case room =>
    rw [hlen]
    exact Nat.min_le_right _ _
  case cap => exact hcap
  case fields => simp only [hlen, hbuf, Nat.sub_sub, hevicted, Bool.or_assoc, ← Bool.decide_or, htruncated]

section
variable {cfg : Config} {l : LineState}

/-- An unknown line in RAW mode is kept and re-terminated (43 R293, R304). -/
theorem LineState.Ok.unknown_raw (h : LineState.Ok cfg l) (hm : l.mode = .raw) :
    let kept := (l.buf ++ [0x0D, 0x0A]).drop (l.buf.length + 2 - l.cap)
    l.unknown = { l with
      buf := kept, start := kept.length, truncated := l.truncated || decide (l.cap < l.buf.length + 2) } := by
  have hcap : 0 < l.cap := by have := h.cap; omega
  rw [LineState.unknown, hm]
  dsimp only
  rw [storeTerm_storeTerm chCR chLF h.room hcap, hm]
  rfl

theorem LineState.unknown_discard (hm : l.mode = .discard) : l.unknown = { l with buf := l.buf.take l.start } := by
  cases l
  subst hm
  rfl

theorem LineState.unknown_callback (hm : l.mode = .callback) :
    l.unknown = { l with buf := l.buf.take l.start, lines := l.lines ++ [l.buf.drop l.start] } := by
  cases l
  subst hm
  rfl

/-! ## RESP_STEP (43 R304) -/

theorem exec_respStep (c : Byte) (s : State) : exec (.respStep c) s = .next { s with
    line := (respStep s.cfg c s.line).2, result := some (.lineStep (respStep s.cfg c s.line).1) } := rfl

variable {c : Byte}

theorem respStep_of_not_terminator (hCR : c ≠ chCR) (hLF : c ≠ chLF) :
    respStep cfg c l = (.more, l.store cfg.maxRespLen c) :=
  if_neg (not_or.2 ⟨hCR, hLF⟩)

section
variable (hc : c = chCR ∨ c = chLF)
include hc

theorem respStep_overlong (hd : l.dropLine = true) : respStep cfg c l = (.more, { l with dropLine := false }) := by
  rw [respStep, if_pos hc, if_pos hd]

variable (hd : ¬ l.dropLine = true)
include hd

theorem respStep_empty (hl : l.buf.length = l.start) : respStep cfg c l = (.more, l) := by
  rw [respStep, if_pos hc, if_neg hd, if_pos hl]

variable (hl : l.buf.length ≠ l.start)
include hl

theorem respStep_code {k : Nat} {name : RespName} {args : List Cid}
    (hk : classifyLine cfg (l.buf.drop l.start) = .code k name args) :
    respStep cfg c l = (.done k name args, { l with buf := l.buf.take l.start }) := by
  rw [respStep, if_pos hc, if_neg hd, if_neg hl, LineState.line, hk]
  rfl

theorem respStep_unknown (hk : classifyLine cfg (l.buf.drop l.start) = .unknown) :
    respStep cfg c l = (.more, l.unknown) := by
  rw [respStep, if_pos hc, if_neg hd, if_neg hl, LineState.line, hk]

end

/-- No byte has been stored since the current line began. -/
theorem LineState.Ok.text_eq_nil_iff (h : LineState.Ok cfg l) : l.buf.drop l.start = [] ↔ l.buf.length = l.start := by
  rw [List.drop_eq_nil_iff]
  have := h.start
  omega

end

/-- Settles O36: a byte that ends no line is one Store, and CR or LF is the rule for the line it ends: overlong, empty,
a code, or unknown in each mode. CR and LF are the model's constants (log 23). -/
theorem replyLinePolicy : Obligations.ReplyLinePolicy := by
  refine ⟨fun c s hCR hLF => ?store, fun c s hinv hc => ?terminator⟩
  case store =>
    rw [exec_respStep, respStep_of_not_terminator hCR hLF]
    rfl
  case terminator =>
    intro l text kept
    rw [exec_respStep]
    by_cases hd : l.dropLine = true
    · rw [if_pos hd, respStep_overlong hc hd]
    rw [if_neg hd]
    by_cases ht : text = []
    · rw [if_pos ht, respStep_empty hc hd (hinv.lineOk.text_eq_nil_iff.1 ht)]
    rw [if_neg ht]
    have hl := mt hinv.lineOk.text_eq_nil_iff.2 ht
    cases hk : classifyLine s.cfg text with
    | code k name args => rw [respStep_code hc hd hl hk]
    | unknown =>
      rw [respStep_unknown hc hd hl hk]
      dsimp only
      split
      · next hm => rw [hinv.lineOk.unknown_raw hm]
      · next hm => rw [LineState.unknown_discard hm]
      · next hm => rw [LineState.unknown_callback hm]

end Sys2Proof.Machine
end

section
/-! PROOFS. Events, connections and the association (44_async_events.md): each edge as a test for the one event it
cancels, DISASSOC_CASCADE in closed form, and the statements of R343 to R348 and R357. -/

namespace Sys2Proof.Machine

/-! ## The coalesced edges (44 R349, R350) -/

/-- Of the three values of an edge register, the one that is neither empty nor the edge raised is the opposite edge. -/
theorem NcmEvent.cancels_disconnected (p : NcmEvent) : (p ≠ .none ∧ p ≠ .disconnected) ↔ p = .connected := by
  cases p <;> decide

theorem NcmEvent.cancels_connected (p : NcmEvent) : (p ≠ .none ∧ p ≠ .connected) ↔ p = .disconnected := by
  cases p <;> decide

theorem AssocEvent.cancels_disassociated (p : AssocEvent) :
    (p ≠ .none ∧ p ≠ .disassociated) ↔ p = .associated := by
  cases p <;> decide

theorem AssocEvent.cancels_associated (p : AssocEvent) :
    (p ≠ .none ∧ p ≠ .associated) ↔ p = .disassociated := by
  cases p <;> decide

theorem State.ncmEdge_disconnected_eq (s : State) : s.ncmEdge .disconnected =
    { s with ncmPending := if s.ncmPending = .connected then .none else .disconnected } := by
  simp only [State.ncmEdge, NcmEvent.cancels_disconnected]

theorem State.ncmEdge_connected_eq (s : State) : s.ncmEdge .connected =
    { s with ncmPending := if s.ncmPending = .disconnected then .none else .connected } := by
  simp only [State.ncmEdge, NcmEvent.cancels_connected]

theorem State.assocEdge_disassociated_eq (s : State) : s.assocEdge .disassociated =
    { s with assocPending := if s.assocPending = .associated then .none else .disassociated } := by
  simp only [State.assocEdge, AssocEvent.cancels_disassociated]

theorem State.assocEdge_associated_eq (s : State) : s.assocEdge .associated =
    { s with assocPending := if s.assocPending = .disassociated then .none else .associated } := by
  simp only [State.assocEdge, AssocEvent.cancels_associated]

/-! ## What the micro-operations run -/

theorem exec_connConnect (c : Cid) (ip : IPv4) (rport lport : Half) (ssl : Bool) (s : State) :
    exec (.connConnect c ip rport lport ssl) s = .next ((connConnect c ip rport lport ssl s).respond .none) := rfl

theorem exec_connDisconnect (c : Cid) (s : State) :
    exec (.connDisconnect c) s = .next ((connDisconnect c s).respond .none) := rfl

theorem exec_connFail (c : Cid) (s : State) : exec (.connFail c) s = .next ((connFail c s).respond .none) := rfl

theorem exec_disassocCascade (s : State) :
    exec .disassocCascade s = .next ((disassocCascade s).respond .none) := rfl

theorem exec_assocUpdate (s : State) : exec .assocUpdate s = .next ((assocUpdate s).respond .none) := rfl

theorem exec_ncmConnect (c : Cid) (s : State) : exec (.ncmConnect c) s = .next ((ncmConnect c s).respond .none) := rfl

theorem exec_takeEvents (s : State) :
    exec .takeEvents s = .next ((clearEvents s).respond (.events (eventByte s) s.ncmCid)) := rfl

theorem after_of_exec {i : Instr} {s t : State} (h : exec i s = .next t) : after i s = t := by
  rw [after, h]

/-! ## CONN_DISCONNECT (44 R344) -/

section
variable {c : Cid} {s : State}

theorem connDisconnect_of_not_connected (h : ¬ (s.connAt c).connected = true) : connDisconnect c s = s := if_neg h

theorem connDisconnect_of_not_ncm (h : (s.connAt c).connected = true) (hn : ¬ (s.ncmValid = true ∧ s.ncmCid = c)) :
    connDisconnect c s = s.setConn c { s.connAt c with connected := false } := by
  rw [connDisconnect_eq, if_pos h, if_neg hn]
  rfl

theorem connDisconnect_of_ncm (h : (s.connAt c).connected = true) (hn : s.ncmValid = true ∧ s.ncmCid = c) :
    connDisconnect c s = { s with
      conn := s.conn.set c { s.connAt c with connected := false }
      ncmValid := false
      ncmPending := if s.ncmPending = .connected then .none else .disconnected } := by
  rw [connDisconnect_eq, if_pos h, if_pos hn]
  simp only [NcmEvent.cancels_disconnected]

end

/-- CONN_DISCONNECT does not read the last result. -/
theorem connDisconnect_respond (c : Cid) (s : State) (r : Response) :
    connDisconnect c (s.respond r) = (connDisconnect c s).respond r := by
  by_cases h : (s.connAt c).connected = true
  · by_cases hn : s.ncmValid = true ∧ s.ncmCid = c
    · rw [connDisconnect_of_ncm h hn, connDisconnect_of_ncm (s := s.respond r) h hn]
      rfl
    · rw [connDisconnect_of_not_ncm h hn, connDisconnect_of_not_ncm (s := s.respond r) h hn]
      rfl
  · rw [connDisconnect_of_not_connected h, connDisconnect_of_not_connected (s := s.respond r) h]

/-- CONN_CONNECT does not read it either. -/
theorem connConnect_respond (c : Cid) (ip : IPv4) (rport lport : Half) (ssl : Bool) (s : State) (r : Response) :
    connConnect c ip rport lport ssl (s.respond r) = (connConnect c ip rport lport ssl s).respond r := by
  rw [connConnect, connDisconnect_respond]
  rfl

/-- Settles O41: CONN_CONNECT writes the entry behind CONN_DISCONNECT, which for a CID that is not connected is nothing;
CONN_DISCONNECT has one case for each outcome; CONN_FAIL is CONN_DISCONNECT in the state with the error latched. -/
theorem connectionMicroOperations : Obligations.ConnectionMicroOperations := by
  refine ⟨fun c ip rport lport ssl s => ?connect, fun c s => ?disconnect, fun c s => ?fail⟩
  case connect =>
    rw [exec_connConnect, connConnect, after_of_exec (exec_connDisconnect c s)]
    by_cases h : s.conn[c].connected = true
    · rw [if_pos h]
      rfl
    · rw [if_neg h, connDisconnect_of_not_connected h]
      rfl
  case disconnect =>
    rw [exec_connDisconnect]
    by_cases h : s.conn[c].connected = true
    · rw [if_neg (by rw [h]; decide)]
      by_cases hn : s.ncmValid = true ∧ s.ncmCid = c
      · rw [if_pos hn, connDisconnect_of_ncm h hn]
        rfl
      · rw [if_neg hn, connDisconnect_of_not_ncm h hn]
        rfl
    · rw [if_pos (Bool.eq_false_iff.2 h), connDisconnect_of_not_connected h]
      rfl
  case fail => rw [exec_connFail, connFail, after_of_exec (exec_connDisconnect c _)]; rfl

/-! ## ASSOC_UPDATE, NCM_CONNECT and TAKE_EVENTS (44 R347, R348, R357) -/

theorem assocUpdate_of_associated {s : State} (h : s.associated = true) : assocUpdate s = s := if_pos h

theorem assocUpdate_of_not_associated {s : State} (h : ¬ s.associated = true) : assocUpdate s = { s with
    associated := true
    assocPending := if s.assocPending = .disassociated then .none else .associated } := by
  rw [assocUpdate, if_neg h, State.assocEdge_associated_eq]

/-- NCM_CONNECT behind the association update and the connect: the edge of an older NCM CID, then the connect edge. -/
theorem ncmConnect_eq_edges (c : Cid) (s u : State)
    (hu : u = connConnect c IPv4.zero 0 0 false (assocUpdate s)) :
    let pending := if u.ncmValid = true ∧ u.ncmCid ≠ c
      then (if u.ncmPending = .connected then .none else .disconnected) else u.ncmPending
    ncmConnect c s = { u with
      ncmValid := true
      ncmCid := c
      ncmPending := if pending = .disconnected then .none else .connected } := by
  obtain ⟨_, v, rfl, hv, h⟩ := ncmConnect_eq c s
  rw [← hu] at hv
  rw [h, hv, State.ncmEdge_connected_eq, State.ncmEdge_disconnected_eq]
  by_cases hold : u.ncmValid = true ∧ u.ncmCid ≠ c
  · simp only [if_pos hold]
  · simp only [if_neg hold]

/-- The bits of the event byte, by their weights. -/
theorem eventByte_toNat (s : State) : (eventByte s).toNat =
    (if s.ncmPending = .disconnected then 1 else 0) + (if s.assocPending = .disassociated then 2 else 0)
      + (if s.assocPending = .associated then 4 else 0) + (if s.ncmPending = .connected then 8 else 0) := by
  unfold eventByte
  cases s.ncmPending <;> cases s.assocPending <;> rfl

/-- Settles O44: ASSOC_UPDATE has one case for each value of `associated`; NCM_CONNECT is its two edges behind the
update and the connect; TAKE_EVENTS answers the event byte. -/
theorem associationMicroOperations : Obligations.AssociationMicroOperations := by
  refine ⟨fun s => ?update, fun c s => ?connect, fun s => ⟨eventByte s, exec_takeEvents s, eventByte_toNat s⟩⟩
  case update =>
    rw [exec_assocUpdate]
    by_cases h : s.associated = true
    · rw [if_pos h, assocUpdate_of_associated h]
      rfl
    · rw [if_neg h, assocUpdate_of_not_associated h]
      rfl
  case connect =>
    rw [exec_ncmConnect, after_of_exec (exec_assocUpdate s), after_of_exec (exec_connConnect c _ _ _ _ _),
      connConnect_respond]
    generalize hu : connConnect c ⟨0, 0, 0, 0⟩ 0 0 false (assocUpdate s) = u
    rw [ncmConnect_eq_edges c s u hu.symm]
    rfl

/-! ## DISASSOC_CASCADE (44 R346) -/

/-- An entry as the cascade leaves it: disconnected with `error` set if it was connected. -/
def Conn.dropped (e : Conn) : Conn := if e.connected = true then { e with connected := false, error := true } else e

@[simp] theorem Conn.dropped_connected (e : Conn) : e.dropped.connected = false := by
  unfold Conn.dropped
  split
  · rfl
  · next h => exact Bool.eq_false_iff.2 h

@[simp] theorem Conn.dropped_dropped (e : Conn) : e.dropped.dropped = e.dropped := by
  rw [Conn.dropped, if_neg (by simp)]

/-- The NCM CID is connected and one of the CIDs. -/
def State.ncmAmong (s : State) (cs : List Cid) : Bool :=
  s.ncmValid && (s.connAt s.ncmCid).connected && decide (s.ncmCid ∈ cs)

/-- The state once the cascade has gone over the CIDs: `cascadeOne_eq` and `foldl_cascadeOne` tie it to the model. -/
def State.cascaded (s : State) (cs : List Cid) : State :=
  { s with
    conn := Vector.ofFn fun k => if k ∈ cs then (s.connAt k).dropped else s.connAt k
    ncmValid := s.ncmValid && !s.ncmAmong cs
    ncmPending := if s.ncmAmong cs = true then (if s.ncmPending = .connected then .none else .disconnected)
      else s.ncmPending }

@[simp] theorem State.connAt_cascaded (s : State) (cs : List Cid) (k : Cid) :
    (s.cascaded cs).connAt k = if k ∈ cs then (s.connAt k).dropped else s.connAt k := by
  simp [State.cascaded, State.connAt]

@[simp] theorem State.ncmValid_cascaded (s : State) (cs : List Cid) :
    (s.cascaded cs).ncmValid = (s.ncmValid && !s.ncmAmong cs) := rfl

@[simp] theorem State.ncmCid_cascaded (s : State) (cs : List Cid) : (s.cascaded cs).ncmCid = s.ncmCid := by
  simp only [State.cascaded]

@[simp] theorem State.associated_cascaded (s : State) (cs : List Cid) : (s.cascaded cs).associated = s.associated := by
  simp only [State.cascaded]

@[simp] theorem State.assocPending_cascaded (s : State) (cs : List Cid) :
    (s.cascaded cs).assocPending = s.assocPending := by
  simp only [State.cascaded]

@[simp] theorem State.ncmPending_cascaded (s : State) (cs : List Cid) : (s.cascaded cs).ncmPending =
    if s.ncmAmong cs = true then (if s.ncmPending = .connected then .none else .disconnected) else s.ncmPending := rfl

/-- An NCM CID that a first part of the cascade disconnects is not valid for the rest of it. -/
theorem State.ncmAmong_cascaded (s : State) (cs ds : List Cid) :
    (s.cascaded cs).ncmAmong ds = (s.ncmAmong (cs ++ ds) && !s.ncmAmong cs) := by
  rw [State.ncmAmong, State.ncmValid_cascaded, State.ncmCid_cascaded, State.connAt_cascaded]
  by_cases h : s.ncmCid ∈ cs
  · simp [State.ncmAmong, h]
  · simp [State.ncmAmong, h]

theorem State.ncmAmong_append_left {s : State} {cs : List Cid} (ds : List Cid) (h : s.ncmAmong cs = true) :
    s.ncmAmong (cs ++ ds) = true := by
  simp_all [State.ncmAmong]

/-! ### States that differ in these registers alone -/

/-- The state differs in the connection table, the validity of the NCM CID and the pending NCM edge alone. -/
def connNcmOnly (s t : State) : Prop :=
  ∃ (conn : Vector Conn 16) (valid : Bool) (pending : NcmEvent),
    t = { s with conn := conn, ncmValid := valid, ncmPending := pending }

theorem connNcmOnly.refl (s : State) : connNcmOnly s s := ⟨_, _, _, rfl⟩

theorem connNcmOnly.trans {s t u : State} (h : connNcmOnly s t) (h' : connNcmOnly t u) : connNcmOnly s u := by
  obtain ⟨_, _, _, rfl⟩ := h
  obtain ⟨_, _, _, rfl⟩ := h'
  exact ⟨_, _, _, rfl⟩

/-- Two such states are equal when these registers are. -/
theorem connNcmOnly.eq {s t u : State} (ht : connNcmOnly s t) (hu : connNcmOnly s u)
    (hconn : ∀ k, t.connAt k = u.connAt k) (hvalid : t.ncmValid = u.ncmValid)
    (hpending : t.ncmPending = u.ncmPending) : t = u := by
  obtain ⟨conn, _, _, rfl⟩ := ht
  obtain ⟨conn', _, _, rfl⟩ := hu
  obtain rfl : conn = conn' := Vector.ext fun i hi => hconn ⟨i, hi⟩
  obtain rfl := hvalid
  obtain rfl := hpending
  rfl

theorem connNcmOnly_cascaded (s : State) (cs : List Cid) : connNcmOnly s (s.cascaded cs) := ⟨_, _, _, rfl⟩

/-! ### The cascade in closed form -/

theorem State.cascaded_nil (s : State) : s.cascaded [] = s :=
  (connNcmOnly_cascaded s []).eq (connNcmOnly.refl s) (fun k => by simp) (by simp [State.ncmAmong])
    (by simp [State.ncmAmong])

theorem State.cascaded_cascaded (s : State) (cs ds : List Cid) :
    (s.cascaded cs).cascaded ds = s.cascaded (cs ++ ds) := by
  refine ((connNcmOnly_cascaded s cs).trans (connNcmOnly_cascaded _ ds)).eq (connNcmOnly_cascaded s _)
    (fun k => ?conn) ?valid ?pending
  case conn => by_cases hc : k ∈ cs <;> by_cases hd : k ∈ ds <;> simp [hc, hd]
  all_goals
    by_cases hcs : s.ncmAmong cs = true
    · simp [State.ncmAmong_cascaded, hcs, State.ncmAmong_append_left ds hcs]
    · simp [State.ncmAmong_cascaded, hcs]

theorem cascadeOne_of_not_connected {s : State} {c : Cid} (h : ¬ (s.connAt c).connected = true) :
    cascadeOne s c = s := if_neg h

theorem cascadeOne_of_connected {s : State} {c : Cid} (h : (s.connAt c).connected = true) :
    cascadeOne s c = connFail c s := if_pos h

theorem State.ncmAmong_singleton (s : State) (c : Cid) :
    s.ncmAmong [c] = true ↔ (s.connAt c).connected = true ∧ s.ncmValid = true ∧ s.ncmCid = c := by
  simp only [State.ncmAmong, Bool.and_eq_true, decide_eq_true_eq, List.mem_singleton]
  constructor
  · rintro ⟨⟨hv, hc⟩, rfl⟩
    exact ⟨hc, hv, rfl⟩
  · rintro ⟨hc, hv, rfl⟩
    exact ⟨⟨hv, hc⟩, rfl⟩

/-- CONN_DISCONNECT, register by register. -/
theorem connDisconnect_registers (c : Cid) (s : State) : connNcmOnly s (connDisconnect c s)
    ∧ (∀ k, (connDisconnect c s).connAt k =
        if k = c then { s.connAt c with connected := false } else s.connAt k)
    ∧ (connDisconnect c s).ncmValid = (s.ncmValid && !s.ncmAmong [c])
    ∧ (connDisconnect c s).ncmPending = if s.ncmAmong [c] = true
        then (if s.ncmPending = .connected then .none else .disconnected) else s.ncmPending := by
  by_cases h : (s.connAt c).connected = true
  · by_cases hn : s.ncmValid = true ∧ s.ncmCid = c
    · have hncm : s.ncmAmong [c] = true := (s.ncmAmong_singleton c).2 ⟨h, hn⟩
      rw [connDisconnect_of_ncm h hn, hncm]
      exact ⟨⟨_, _, _, rfl⟩, fun k => s.connAt_setConn c k _, (Bool.and_false _).symm, (if_pos rfl).symm⟩
    · have hncm : s.ncmAmong [c] = false := Bool.eq_false_iff.2 fun hc => hn ((s.ncmAmong_singleton c).1 hc).2
      rw [connDisconnect_of_not_ncm h hn, hncm]
      exact ⟨⟨_, _, _, rfl⟩, fun k => s.connAt_setConn c k _, (Bool.and_true _).symm,
        (if_neg Bool.false_ne_true).symm⟩
  · have hncm : s.ncmAmong [c] = false := Bool.eq_false_iff.2 fun hc => h ((s.ncmAmong_singleton c).1 hc).1
    have hsame : ({ s.connAt c with connected := false } : Conn) = s.connAt c := by
      rw [← Bool.eq_false_iff.2 h]
    rw [connDisconnect_of_not_connected h, hncm, hsame]
    refine ⟨connNcmOnly.refl s, fun k => ?_, (Bool.and_true _).symm, (if_neg Bool.false_ne_true).symm⟩
    split
    · next hk => rw [hk]
    · rfl

theorem State.ncmAmong_setConn (s : State) (c : Cid) (e : Conn) (cs : List Cid)
    (h : e.connected = (s.connAt c).connected) : (s.setConn c e).ncmAmong cs = s.ncmAmong cs := by
  have hconn : ((s.setConn c e).connAt s.ncmCid).connected = (s.connAt s.ncmCid).connected := by
    rw [State.connAt_setConn]
    split
    · next hk => rw [h, hk]
    · rfl
  exact congrArg (fun b => s.ncmValid && b && decide (s.ncmCid ∈ cs)) hconn

/-- One CID of the cascade. If it is connected, CONN_FAIL is CONN_DISCONNECT with `error` set. -/
theorem cascadeOne_eq (s : State) (c : Cid) : cascadeOne s c = s.cascaded [c] := by
  by_cases h : (s.connAt c).connected = true
  · rw [cascadeOne_of_connected h, connFail]
    generalize hu : s.setConn c { s.connAt c with error := true } = u
    have hu' : connNcmOnly s u := hu ▸ ⟨_, _, _, rfl⟩
    have hncm : u.ncmAmong [c] = s.ncmAmong [c] := hu ▸ s.ncmAmong_setConn c _ _ rfl
    obtain ⟨honly, hconn, hvalid, hpending⟩ := connDisconnect_registers c u
    refine (hu'.trans honly).eq (connNcmOnly_cascaded s _) (fun k => ?_) ?_ ?_
    · rw [hconn, ← hu]
      by_cases hk : k = c <;> simp [hk, Conn.dropped, h]
    · rw [hvalid, hncm, ← hu]
      rfl
    · rw [hpending, hncm, ← hu]
      rfl
  · have hdropped : (s.connAt c).dropped = s.connAt c := if_neg h
    have hncm : ¬ s.ncmAmong [c] = true := fun hc => h ((s.ncmAmong_singleton c).1 hc).1
    rw [cascadeOne_of_not_connected h]
    refine (connNcmOnly.refl s).eq (connNcmOnly_cascaded s _) (fun k => ?_) (by simp [hncm]) (by simp [hncm])
    by_cases hk : k = c <;> simp [hk, hdropped]

theorem foldl_cascadeOne (cs : List Cid) (s : State) : cs.foldl cascadeOne s = s.cascaded cs := by
  induction cs generalizing s with
  | nil => exact s.cascaded_nil.symm
  | cons c cs ih => rw [List.foldl_cons, ih, cascadeOne_eq, State.cascaded_cascaded, List.singleton_append]

/-- The one edge of the association, behind the whole cascade. -/
theorem disassocCascade_eq (s : State) : disassocCascade s = { s.cascaded (List.finRange 16) with
    associated := false
    assocPending := if s.associated = true then (if s.assocPending = .associated then .none else .disassociated)
      else s.assocPending } := by
  have hassoc := s.associated_cascaded (List.finRange 16)
  have hpending := s.assocPending_cascaded (List.finRange 16)
  rw [disassocCascade, foldl_cascadeOne, hassoc]
  generalize s.cascaded (List.finRange 16) = u at hassoc hpending ⊢
  by_cases h : s.associated = true
  · rw [if_pos h, if_pos h, State.assocEdge_disassociated_eq]
    simp only [hpending]
  · rw [if_neg h, if_neg h, ← hpending, ← Bool.eq_false_iff.2 (hassoc ▸ h)]

theorem State.ncmAmong_finRange (s : State) :
    s.ncmAmong (List.finRange 16) = (s.ncmValid && s.conn[s.ncmCid].connected) := by
  rw [State.ncmAmong, decide_eq_true (List.mem_finRange _), Bool.and_true]
  rfl

theorem State.conn_cascaded_finRange (s : State) :
    (s.cascaded (List.finRange 16)).conn = s.conn.map Conn.dropped := by
  refine Vector.ext fun i hi => ?_
  have h := s.connAt_cascaded (List.finRange 16) ⟨i, hi⟩
  rw [if_pos (List.mem_finRange _)] at h
  rw [Vector.getElem_map]
  exact h

/-- Settles O42: the sixteen turns of the cascade in closed form, and every CID is one of the sixteen. -/
theorem cascadeDisconnectsEveryCid : Obligations.CascadeDisconnectsEveryCid := by
  intro s ncm
  rw [exec_disassocCascade, disassocCascade_eq]
  have hncm : s.ncmAmong (List.finRange 16) = ncm := s.ncmAmong_finRange
  have hconn := s.conn_cascaded_finRange
  have hvalid := s.ncmValid_cascaded (List.finRange 16)
  have hpending := s.ncmPending_cascaded (List.finRange 16)
  obtain ⟨conn, valid, pending, hu⟩ := connNcmOnly_cascaded s (List.finRange 16)
  rw [hncm] at hvalid hpending
  rw [hu] at hconn hvalid hpending ⊢
  obtain rfl : conn = _ := hconn
  obtain rfl : valid = _ := hvalid
  obtain rfl : pending = _ := hpending
  rfl

end Sys2Proof.Machine
end

section
/-! PROOFS. The statements of 45_parsers.md about the parser and formatter micro-operations: PARSE_IP as the reading of
its dotted groups (45 R393), FORMAT_FIELDS spelled out form by form (45 R395), and the round trips (45 R396). -/

namespace Sys2Proof.Machine

/-! ## What the micro-operations run -/

theorem exec_parseInt (base : Byte) (width : IntWidth) (chars : List Byte) (s : State) :
    exec (.parseInt base width chars) s =
      .next (s.respond (.number (parseInt chars base.toNat (widthBits width)))) := rfl

theorem exec_parseIp (chars : List Byte) (s : State) :
    exec (.parseIp chars) s = .next (s.respond (.address (parseIp chars))) := rfl

theorem exec_formatFields (form : FormatArg) (s : State) :
    exec (.formatFields form) s = .next (s.respond (.text (formatFields s.cfg form))) := rfl

/-! ## The end of a group (45 R393) -/

theorem isDec_iff (b : Byte) : isDec b = true ↔ 0x30 ≤ b.toNat ∧ b.toNat ≤ 0x39 := by simp [isDec]

theorem closeGroup_eq_some_iff (digits v : Nat) (done out : List Byte) : closeGroup digits v done = some out ↔
    digits ≠ 0 ∧ v ≤ 255 ∧ done.length ≠ 4 ∧ done ++ [BitVec.ofNat 8 v] = out := by
  unfold closeGroup
  split_ifs with hzero hbig hfull
  · simp [hzero]
  · simp only [false_iff]; omega
  · simp [hfull]
  · simp only [Option.some.injEq, hzero, hfull, ne_eq, not_false_eq_true, true_and, iff_and_self]; omega

/-- A decimal digit goes into the value as PARSE_IP takes it in. -/
theorem spelledIn_cons_dec (b : Byte) (hb : isDec b = true) (g : List Byte) (v : Nat) :
    spelledIn 10 (b :: g) v = spelledIn 10 g (10 * v + decValue b) := by
  have hrange := (isDec_iff b).1 hb
  have hdigit : digitValue b = some (decValue b) := if_pos hrange
  have hlt : decValue b < 10 := by rw [decValue]; omega
  simp only [spelledIn, hdigit, if_pos hlt, Nat.mul_comm v]

/-- The characters `g` end a group that has `digits` digits with the value `v` so far, and give it the value `w`. -/
def GroupEnd (digits v : Nat) (g : List Byte) (w : Nat) : Prop :=
  1 ≤ g.length + digits ∧ g.length + digits ≤ 3 ∧ (∀ b ∈ g, 0x30 ≤ b.toNat ∧ b.toNat ≤ 0x39)
    ∧ spelledIn 10 g v = some w ∧ w ≤ 255

theorem groupEnd_nil_iff (digits v w : Nat) :
    GroupEnd digits v [] w ↔ (1 ≤ digits ∧ digits ≤ 3) ∧ v = w ∧ w ≤ 255 := by
  simp [GroupEnd, spelledIn, and_assoc]

theorem groupEnd_cons_iff (digits v w : Nat) (b : Byte) (g : List Byte) :
    GroupEnd digits v (b :: g) w ↔ isDec b = true ∧ GroupEnd (digits + 1) (10 * v + decValue b) g w := by
  have hcount : (b :: g).length + digits = g.length + (digits + 1) := by rw [List.length_cons]; omega
  unfold GroupEnd
  rw [hcount, List.forall_mem_cons, ← isDec_iff]
  constructor
  · rintro ⟨hmin, hmax, ⟨hb, hg⟩, hval, hle⟩
    exact ⟨hb, hmin, hmax, hg, spelledIn_cons_dec b hb g v ▸ hval, hle⟩
  · rintro ⟨hb, hmin, hmax, hg, hval, hle⟩
    exact ⟨hmin, hmax, ⟨hb, hg⟩, spelledIn_cons_dec b hb g v ▸ hval, hle⟩

theorem GroupEnd.ne_nil {v w : Nat} {g : List Byte} (h : GroupEnd 0 v g w) : g ≠ [] := List.ne_nil_of_length_pos h.1

/-! ## Dotted groups read (45 R393) -/

/-- The characters of groups with a dot between each two. -/
def joinDots (groups : List (List Byte)) : List Byte := (groups.intersperse [chDot]).flatten

theorem joinDots_singleton (g : List Byte) : joinDots [g] = g := by simp [joinDots]

theorem joinDots_cons_cons (g g' : List Byte) (gs : List (List Byte)) :
    joinDots (g :: g' :: gs) = g ++ chDot :: joinDots (g' :: gs) := by simp [joinDots]

theorem joinDots_cons_ne_nil (g : List Byte) (gs : List (List Byte)) (hg : g ≠ []) : joinDots (g :: gs) ≠ [] := by
  cases gs with
  | nil => simpa [joinDots_singleton] using hg
  | cons g' gs => simp [joinDots_cons_cons]

theorem joinDots_cons_head (b : Byte) (g : List Byte) (gs : List (List Byte)) :
    joinDots ((b :: g) :: gs) = b :: joinDots (g :: gs) := by
  cases gs with
  | nil => simp only [joinDots_singleton]
  | cons g' gs => simp only [joinDots_cons_cons, List.cons_append]

/-- What PARSE_IP reads is the end of the group it stands in and then whole groups behind dots. -/
theorem exists_groups_of_parseGroups (chars : List Byte) (digits v : Nat) (done out : List Byte)
    (hdigits : digits ≤ 3) (hdone : done.length ≤ 4) (h : parseGroups chars digits v done = some out) :
    ∃ g gs w ws, chars = joinDots (g :: gs) ∧ GroupEnd digits v g w ∧ List.Forall₂ (GroupEnd 0 0) gs ws
      ∧ done.length + (g :: gs).length ≤ 4 ∧ out = done ++ (w :: ws).map (BitVec.ofNat 8) := by
  induction chars generalizing digits v done with
  | nil =>
    obtain ⟨hpos, hv, hfour, rfl⟩ := (closeGroup_eq_some_iff digits v done out).1 h
    refine ⟨[], [], v, [], rfl, (groupEnd_nil_iff ..).2 ⟨⟨?_, hdigits⟩, rfl, hv⟩, .nil, ?_, rfl⟩
    · omega
    · simp only [List.length_singleton]; omega
  | cons b rest ih =>
    by_cases hb : isDec b = true
    · by_cases hthree : digits = 3
      · simp [parseGroups, hb, hthree] at h
      · simp only [parseGroups, hb, if_true, if_neg hthree] at h
        obtain ⟨g, gs, w, ws, rfl, hg, hgs, hlen, hout⟩ := ih _ _ _ (by omega) hdone h
        exact ⟨b :: g, gs, w, ws, (joinDots_cons_head b g gs).symm, (groupEnd_cons_iff ..).2 ⟨hb, hg⟩, hgs, hlen,
          hout⟩
    · cases hclose : closeGroup digits v done with
      | none => simp [parseGroups, hb, hclose] at h
      | some done' =>
        obtain ⟨hpos, hv, hfour, rfl⟩ := (closeGroup_eq_some_iff digits v done done').1 hclose
        by_cases hdot : b = chDot ∧ rest ≠ []
        · simp only [parseGroups, hb, hclose, if_pos hdot] at h
          obtain ⟨g, gs, w, ws, rfl, hg, hgs, hlen, rfl⟩ :=
            ih 0 0 _ (by decide) (by rw [List.length_append, List.length_singleton]; omega) h
          refine ⟨[], g :: gs, v, w :: ws, ?_, (groupEnd_nil_iff ..).2 ⟨⟨?_, hdigits⟩, rfl, hv⟩, .cons hg hgs, ?_,
            ?_⟩
          · rw [joinDots_cons_cons, hdot.1, List.nil_append]
          · omega
          · simp only [List.length_append, List.length_cons, List.length_nil] at hlen ⊢; omega
          · simp
        · simp [parseGroups, hb, hclose, if_neg hdot] at h

/-- The digits that end a group leave its digit count and its value, whatever follows. -/
theorem parseGroups_groupEnd {digits v w : Nat} {g : List Byte} (h : GroupEnd digits v g w) (rest done : List Byte) :
    parseGroups (g ++ rest) digits v done = parseGroups rest (g.length + digits) w done := by
  induction g generalizing digits v with
  | nil =>
    obtain ⟨-, rfl, -⟩ := (groupEnd_nil_iff ..).1 h
    simp
  | cons b g ih =>
    obtain ⟨hb, hg⟩ := (groupEnd_cons_iff ..).1 h
    have hthree : digits ≠ 3 := by have := hg.2.1; omega
    rw [List.cons_append, parseGroups, if_pos hb, if_neg hthree, ih hg, List.length_cons]
    congr 1
    omega

theorem closeGroup_groupEnd {digits v w : Nat} {g : List Byte} (h : GroupEnd digits v g w) (done : List Byte)
    (hdone : done.length ≠ 4) : closeGroup (g.length + digits) w done = some (done ++ [BitVec.ofNat 8 w]) := by
  obtain ⟨hmin, -, -, -, hle⟩ := h
  exact (closeGroup_eq_some_iff ..).2 ⟨by omega, hle, hdone, rfl⟩

/-- Whole groups with dots between them are read as their values. -/
theorem parseGroups_joinDots {digits v w : Nat} {g : List Byte} {gs : List (List Byte)} {ws : List Nat}
    (hg : GroupEnd digits v g w) (hgs : List.Forall₂ (GroupEnd 0 0) gs ws) (done : List Byte)
    (hlen : done.length + (g :: gs).length ≤ 4) :
    parseGroups (joinDots (g :: gs)) digits v done = some (done ++ (w :: ws).map (BitVec.ofNat 8)) := by
  have hroom : done.length ≠ 4 := by rw [List.length_cons] at hlen; omega
  have hclose := closeGroup_groupEnd hg done hroom
  induction hgs generalizing digits v w g done with
  | nil =>
    have hend := parseGroups_groupEnd hg [] done
    rw [List.append_nil] at hend
    rw [joinDots_singleton, hend, parseGroups, hclose]
    rfl
  | @cons g' w' gs ws hg' hgs ih =>
    have hdot : isDec chDot = false := rfl
    have hnext : (done ++ [BitVec.ofNat 8 w]).length + (g' :: gs).length ≤ 4 := by
      simp only [List.length_append, List.length_cons, List.length_nil] at hlen ⊢
      omega
    have hroom' : (done ++ [BitVec.ofNat 8 w]).length ≠ 4 := by rw [List.length_cons] at hnext; omega
    rw [joinDots_cons_cons, parseGroups_groupEnd hg, parseGroups, hclose]
    simp only [hdot, joinDots_cons_ne_nil g' gs hg'.ne_nil, ne_eq, not_false_eq_true, and_self, if_true,
      Bool.false_eq_true, if_false]
    rw [ih hg' _ hnext hroom' (closeGroup_groupEnd hg' _ hroom')]
    simp

theorem parseGroups_eq_some_iff (chars out : List Byte) : parseGroups chars 0 0 [] = some out ↔
    ∃ (groups : List (List Byte)) (values : List Nat), 1 ≤ groups.length ∧ groups.length ≤ 4
      ∧ chars = joinDots groups ∧ List.Forall₂ (GroupEnd 0 0) groups values
      ∧ out = values.map (BitVec.ofNat 8) := by
  constructor
  · intro h
    obtain ⟨g, gs, w, ws, hchars, hg, hgs, hlen, hout⟩ :=
      exists_groups_of_parseGroups chars 0 0 [] out (by decide) (by decide) h
    rw [List.length_nil, Nat.zero_add] at hlen
    exact ⟨g :: gs, w :: ws, Nat.succ_pos _, hlen, hchars, .cons hg hgs, hout⟩
  · rintro ⟨groups, values, hmin, hmax, rfl, hgroups, rfl⟩
    cases hgroups with
    | nil => exact absurd hmin (by decide)
    | cons hg hgs => exact parseGroups_joinDots hg hgs [] (by simpa using hmax)

theorem octetsOf_map (values : List Nat) : octetsOf (values.map (BitVec.ofNat 8)) =
    ⟨BitVec.ofNat 8 (values.getD 0 0), BitVec.ofNat 8 (values.getD 1 0), BitVec.ofNat 8 (values.getD 2 0),
      BitVec.ofNat 8 (values.getD 3 0)⟩ := by
  have hget (n : Nat) : (values.map (BitVec.ofNat 8)).getD n 0 = BitVec.ofNat 8 (values.getD n 0) :=
    List.getD_map values 0 (BitVec.ofNat 8)
  simp only [octetsOf, hget]

/-- Settles O48: PARSE_IP is its groups read, and the octets are their values. -/
theorem parseIpAcceptsDottedGroups : Obligations.ParseIpAcceptsDottedGroups := by
  intro chars s
  refine ⟨parseIp chars, exec_parseIp chars s, fun a => ?_⟩
  simp only [parseIp, Option.map_eq_some_iff, parseGroups_eq_some_iff]
  constructor
  · rintro ⟨_, ⟨groups, values, hmin, hmax, hchars, hgroups, rfl⟩, rfl⟩
    refine ⟨groups, values, hmin, hmax, hchars, hgroups, ?_⟩
    rw [List.length_map, ← hgroups.length_eq, octetsOf_map]
  · rintro ⟨groups, values, hmin, hmax, hchars, hgroups, rfl⟩
    refine ⟨_, ⟨groups, values, hmin, hmax, hchars, hgroups, rfl⟩, ?_⟩
    rw [List.length_map, ← List.Forall₂.length_eq hgroups, octetsOf_map]

/-! ## The forms spelled out (45 R395) -/

theorem decChar_eq_digitChar (d : Nat) (hd : d < 10) : decChar d = BitVec.ofNat 8 d.digitChar.toNat := by
  rw [Nat.toNat_digitChar_of_lt_ten hd, decChar]

/-- The last digit of decN apart from the digits before it. -/
theorem decN_snoc (v : Nat) (hten : 10 ≤ v) (hv : v < 65536) : decN v = decN (v / 10) ++ [decChar (v % 10)] := by
  have hfive : v < 100000 := Nat.lt_trans hv (by decide)
  unfold decN
  simp only [Nat.div_lt_iff_lt_mul (show 0 < 10 by decide), Nat.div_div_eq_div_mul, Nat.reduceMul,
    if_neg (Nat.not_lt.2 hten), if_pos hfive]
  split_ifs <;> rfl

/-- decN is the decimal numeral of the library. -/
theorem decN_eq_toDigits (v : Nat) (hv : v < 65536) :
    decN v = (Nat.toDigits 10 v).map (fun ch => BitVec.ofNat 8 ch.toNat) := by
  induction v using Nat.strong_induction_on with
  | _ v ih =>
    by_cases hten : v < 10
    · rw [decN, if_pos hten, Nat.toDigits_of_lt_base hten, List.map_singleton, decChar_eq_digitChar v hten]
    · have hdiv : v / 10 < v := by omega
      rw [decN_snoc v (by omega) hv, Nat.toDigits_of_base_le (by decide) (by omega), List.map_append,
        List.map_singleton, ← ih (v / 10) hdiv (by omega), decChar_eq_digitChar _ (Nat.mod_lt v (by decide))]

theorem decN_half (v : Half) : decN v.toNat = (Nat.toDigits 10 v.toNat).map (fun ch => BitVec.ofNat 8 ch.toNat) :=
  decN_eq_toDigits _ v.isLt

theorem decN_octet (v : Byte) : decN v.toNat = (Nat.toDigits 10 v.toNat).map (fun ch => BitVec.ofNat 8 ch.toNat) :=
  decN_eq_toDigits _ (Nat.lt_trans v.isLt (by decide))

theorem dec4_of_le (v : Nat) (hv : v ≤ 9999) : dec4 v = [BitVec.ofNat 8 (0x30 + v / 1000),
    BitVec.ofNat 8 (0x30 + v / 100 % 10), BitVec.ofNat 8 (0x30 + v / 10 % 10), BitVec.ofNat 8 (0x30 + v % 10)] :=
  if_pos (Nat.lt_succ_of_le hv)

theorem hexU_eq (v : Cid) : hexU v = BitVec.ofNat 8 (if v.val < 10 then 0x30 + v.val else 0x41 + v.val - 10) := by
  unfold hexU
  split_ifs with h
  · rfl
  · rw [Nat.add_sub_assoc (Nat.le_of_not_lt h)]

/-- The default TX_ADDRESSED_FORM (30 R112). -/
theorem encodeTxAddr_default (cfg : Config) (c : Cid) (a : NetAddr) (n : Nat)
    (h : cfg.txAddressed = [.esc, .lit 0x59, .cid, .ip, .lit 0x3A, .port, .lit 0x3A, .len]) :
    encodeTxAddr cfg c a n =
      [cfg.escChar, 0x59] ++ [hexU c] ++ dotted a.ip ++ [0x3A] ++ decN a.port.toNat ++ [0x3A] ++ dec4 n := by
  simp [encodeTxAddr, h, txPiece]

/-- Settles O49: each form's definition, with `hexU`, `dec4`, `decN` and `dotted` rewritten by their closed forms. -/
theorem formatFieldsForms : Obligations.FormatFieldsForms := by
  intro s text dec dec4' hex dots
  have hexec (form : FormatArg) (bytes : List Byte) (h : formatFields s.cfg form = bytes) :
      exec (.formatFields form) s = text bytes := by rw [exec_formatFields, h]; rfl
  have hhex (v : Cid) : [hexU v] = hex v := congrArg (fun b => [b]) (hexU_eq v)
  have hdec4 (v : Half) (hv : v.toNat ≤ 9999) : dec4 v.toNat = dec4' v.toNat := dec4_of_le _ hv
  have hdec (v : Half) : decN v.toNat = dec v.toNat := decN_half v
  have hdots (ip : IPv4) : dotted ip = dots ip := by
    simp only [dotted, decN_octet, dots, dec, chDot, List.append_assoc, List.cons_append, List.nil_append]
  refine ⟨fun v => hexec _ _ (hhex v), fun v hv => hexec _ _ (hdec4 v hv), fun v => hexec _ _ (hdec v),
    fun ip => hexec _ _ (hdots ip), fun h hlen => hexec _ _ ?rxHeader, fun c n hlen => hexec _ _ ?txHeader,
    fun hform c ip port n hlen => hexec _ _ ?txAddr⟩
  case rxHeader =>
    rw [← hhex, ← hdots, ← hdec, ← hdec4 _ hlen]
    simp only [formatFields, encodeRxHeader]
    split_ifs <;> simp [chSP, chHT]
  case txHeader =>
    rw [← hhex, ← hdec4 _ hlen]
    rfl
  case txAddr =>
    rw [← hhex, ← hdots, ← hdec, ← hdec4 _ hlen]
    exact encodeTxAddr_default s.cfg c ⟨ip, port⟩ n.toNat hform

/-! ## The round trips (45 R396) -/

theorem parseInt_hexU (v : Cid) : parseInt [hexU v] 16 8 = some v.val := by
  revert v
  decide

/-- Settles O50: PARSE_INT and PARSE_IP read what each formatter writes. -/
theorem formatThenParse : Obligations.FormatThenParse := by
  intro s formatted
  have hformatted (form : FormatArg) : formatted form = formatFields s.cfg form := rfl
  have hnumber (base : Byte) (width : IntWidth) (form : FormatArg) (n : Nat)
      (h : parseInt (formatFields s.cfg form) base.toNat (widthBits width) = some n) :
      (after (.parseInt base width (formatted form)) s).result = some (.number (some n)) := by
    rw [hformatted, after_of_exec (exec_parseInt ..), h]
    rfl
  have haddress (form : FormatArg) (a : ParsedIp) (h : parseIp (formatFields s.cfg form) = some a) :
      (after (.parseIp (formatted form)) s).result = some (.address (some a)) := by
    rw [hformatted, after_of_exec (exec_parseIp ..), h]
    rfl
  exact ⟨fun v => hnumber _ _ _ _ (parseInt_hexU v),
    fun v hv => hnumber _ _ _ _ (parseInt_dec4 _ (Nat.lt_succ_of_le hv)),
    fun v => hnumber _ _ _ _ (parseInt_decN _ v.isLt), fun ip => haddress _ _ (parseIp_dotted ip)⟩

end Sys2Proof.Machine
end

section
/-! PROOFS. START and STATUS (46_host_ops.md R460, R463): START by the block's lifecycle and the value of its mode, the
STATUS word of 10 R49 as the sum of its fields at their weights. -/

namespace Sys2Proof.Machine

/-! ## START (46 R460) -/

theorem exec_start (mode : Byte) (s : State) : exec (.start mode) s =
    .next (if s.lifecycle ≠ .stopped then s.hostCode .errAlreadyStarted
      else s.withOperand (modeOperand mode) fun m => { s.startInit m with lifecycle := .starting }.hostOk []) := rfl

theorem modeOperand_of_gt {b : Byte} (h : 1 < b.toNat) : modeOperand b = none := by
  unfold modeOperand
  rw [if_neg (by bv_omega), if_neg (by bv_omega)]

theorem modeOperand_of_le {b : Byte} (h : ¬ 1 < b.toNat) :
    modeOperand b = some (if b = 0 then .stream else .bus) := by
  unfold modeOperand
  by_cases h0 : b = 0
  · rw [if_pos h0, if_pos h0]
  · rw [if_neg h0, if_neg h0, if_pos (by bv_omega)]

/-- Settles O13: the lifecycle is tested first, then the mode; a block that passes both is what StartInit leaves. -/
theorem startResult : Obligations.StartResult := by
  intro mode s
  rw [exec_start]
  by_cases hstopped : s.lifecycle ≠ .stopped
  · rw [if_pos hstopped, if_pos hstopped]
    rfl
  · rw [if_neg hstopped, if_neg hstopped]
    by_cases hmode : 1 < mode.toNat
    · rw [if_pos hmode, modeOperand_of_gt hmode, State.withOperand_none]
    · rw [if_neg hmode, modeOperand_of_le hmode, State.withOperand_some]
      rfl

/-! ## The STATUS word (10 R49) -/

theorem halfBytes_eq (w : Half) : halfBytes w = [BitVec.ofNat 8 w.toNat, BitVec.ofNat 8 (w.toNat / 256)] := by
  rw [← countBytes_of_lt w.toNat w.isLt, countBytes, if_pos w.isLt, BitVec.ofNat_toNat, BitVec.setWidth_eq]

theorem exec_status (s : State) : exec .status s = .next { s with
    result := some (.record [0x00, BitVec.ofNat 8 (statusWord s).toNat,
      BitVec.ofNat 8 ((statusWord s).toNat / 256)]) } := by
  rw [← halfBytes_eq]
  rfl

/-- The fields of `x` stand above the `n` bits of `y`: each counts `2 ^ n` times what it counts in `x`. -/
theorem toNat_append_eq_add {m n : Nat} (x : BitVec m) (y : BitVec n) :
    (x ++ y).toNat = y.toNat + 2 ^ n * x.toNat := by
  rw [BitVec.toNat_append, Nat.shiftLeft_eq, Nat.mul_comm, ← Nat.two_pow_add_eq_or_of_lt y.isLt, Nat.add_comm]

/-- The fields of the STATUS word at their weights. -/
theorem statusWord_toNat (s : State) : (statusWord s).toNat =
    s.lifecycle.code.toNat + 2 ^ 2 * s.linkMode.code.toNat + 2 ^ 3 * (bit s.unrecoverable).toNat
      + 2 ^ 4 * s.fatalCause.code.toNat + 2 ^ 6 * (bit s.paused).toNat + 2 ^ 7 * (bit s.escPending).toNat
      + 2 ^ 8 * s.rxState.code.toNat + 2 ^ 12 * (bit s.associated).toNat + 2 ^ 13 * s.assocPending.code.toNat
      + 2 ^ 15 * (bit (decide (s.ncmPending ≠ .none))).toNat := by
  simp only [statusWord, toNat_append_eq_add]
  ring

theorem bit_toNat (b : Bool) : (bit b).toNat = if b then 1 else 0 := by
  cases b <;> rfl

theorem bit_ncmPending_toNat (e : NcmEvent) : (bit (decide (e ≠ .none))).toNat =
    match e with | .none => 0 | .connected => 1 | .disconnected => 1 := by
  cases e <;> rfl

theorem Lifecycle.code_toNat (l : Lifecycle) :
    l.code.toNat = match l with | .stopped => 0 | .starting => 1 | .running => 2 := by
  cases l <;> rfl

theorem LinkMode.code_toNat (m : LinkMode) : m.code.toNat = match m with | .stream => 0 | .bus => 1 := by
  cases m <;> rfl

theorem FatalCause.code_toNat (c : FatalCause) : c.code.toNat = match c with
    | .none => 0 | .responseTimeout => 1 | .dataResponseTimeout => 2 | .busErrorStorm => 3 := by
  cases c <;> rfl

theorem RxState.code_toNat (r : RxState) : r.code.toNat = match r with
    | .idle => 0 | .escape => 1 | .escapeZ => 2 | .escapeA => 3 | .escapeY1 => 4 | .escapeY2 => 5
    | .escapeY3 => 6 | .async => 7 | .bulk => 8 := by
  cases r <;> rfl

theorem AssocEvent.code_toNat (e : AssocEvent) :
    e.code.toNat = match e with | .none => 0 | .associated => 1 | .disassociated => 2 := by
  cases e <;> rfl

/-- Settles O15: the word is the one the model answers; each field has the value of its code. -/
theorem statusWordLayout : Obligations.StatusWordLayout := by
  intro s
  have hword := statusWord_toNat s
  rw [bit_ncmPending_toNat] at hword
  simp only [Lifecycle.code_toNat, LinkMode.code_toNat, bit_toNat, FatalCause.code_toNat, RxState.code_toNat,
    AssocEvent.code_toNat] at hword
  exact ⟨statusWord s, exec_status s, hword⟩

end Sys2Proof.Machine
end

section
/-! PROOFS. What a step and an operation can do (00_scope.md R7, R8; 46_host_ops.md R464): the cases of a step, the gate
as one rule for all gated operations, the kinds of micro-operations; and the statements of R464 and of steps with a word
waiting. -/

namespace Sys2Proof.Machine

/-! ## The cases of a step and of an operation -/

/-- Every operation answers a next state. -/
theorem exec_eq_next_after (i : Instr) (s : State) : exec i s = .next (after i s) := by
  cases i <;> rfl

theorem after_eq_of_exec {i : Instr} {s t : State} (h : exec i s = .next t) : t = after i s :=
  (after_of_exec h).symm

/-- Where a step ends: the operation in progress has gone on, nothing was waiting, an illegal host opcode was answered,
or the waiting word's operation has run. -/
inductive StepEnds (s : State) : State → Prop where
  | resumed (a : Activity) (h : s.activity = some a) : StepEnds s s.resume
  | idle (h : s.activity = none) (hp : s.port = []) : StepEnds s s
  | illegal (r : Request) (rest : List Request) (h : s.activity = none) (hp : s.port = r :: rest) :
      StepEnds s ({ s with port := rest }.hostCode .errIllegalOp)
  | ran (i : Instr) (r : Request) (rest : List Request) (h : s.activity = none) (hp : s.port = r :: rest)
      (hd : decode r.port r.word = .ok i) : StepEnds s (after i { s with port := rest })

/-- `fetch` with a word waiting, by what the decoder reads from it. -/
theorem fetch_cons {s : State} {r : Request} {rest : List Request} (hp : s.port = r :: rest) :
    (∃ i, decode r.port r.word = .ok i ∧ fetch s = .run i { s with port := rest })
      ∨ fetch s = .illegal ({ s with port := rest }.hostCode .errIllegalOp) ∨ ∃ why, fetch s = .bad why := by
  unfold fetch
  rw [hp]
  dsimp only
  split
  · next i hd => exact .inl ⟨i, hd, rfl⟩
  · split
    · exact .inr (.inl rfl)
    · exact .inr (.inr ⟨_, rfl⟩)
  · exact .inr (.inr ⟨_, rfl⟩)

section
variable {s : State} (hv : s.cfg.valid = true) (hr : s.registersOk = true) (ha : s.activity = none)
include hv hr ha

theorem step_of_fetch_idle (hf : fetch s = .idle) : step s = .next s := by
  simp only [step, hv, hr, ha, hf, if_true]

theorem step_of_fetch_illegal {t : State} (hf : fetch s = .illegal t) : step s = .next t := by
  simp only [step, hv, hr, ha, hf, if_true]

theorem step_of_fetch_run {t : State} {i : Instr} (hf : fetch s = .run i t) : step s = exec i t := by
  simp only [step, hv, hr, ha, hf, if_true]

theorem step_of_fetch_bad {why : DecodeError} (hf : fetch s = .bad why) :
    step s = .refused (.notAnOperationWord why) := by
  simp only [step, hv, hr, ha, hf, if_true]

end

/-- Everything a step that answers a next state can have done. -/
theorem step_ends {s t : State} (h : step s = .next t) : StepEnds s t := by
  have hv : s.cfg.valid = true := by
    by_contra hv
    rw [step, if_neg hv] at h
    cases h
  have hr : s.registersOk = true := by
    by_contra hr
    rw [step, if_pos hv, if_neg hr] at h
    cases h
  cases ha : s.activity with
  | some a =>
    rw [step, if_pos hv, if_pos hr, ha] at h
    cases h
    exact .resumed a ha
  | none =>
    cases hp : s.port with
    | nil =>
      rw [step_of_fetch_idle hv hr ha (by rw [fetch, hp])] at h
      cases h
      exact .idle ha hp
    | cons r rest =>
      obtain ⟨i, hd, hf⟩ | hf | ⟨why, hf⟩ := fetch_cons hp
      · rw [step_of_fetch_run hv hr ha hf] at h
        exact after_eq_of_exec h ▸ .ran i r rest ha hp hd
      · rw [step_of_fetch_illegal hv hr ha hf] at h
        cases h
        exact .illegal r rest ha hp
      · rw [step_of_fetch_bad hv hr ha hf] at h
        cases h

/-! ## Steps with a word waiting, and at power-on (30 R119, 70 R520) -/

/-- Settles O4: the fetched operation is the decoded one, with its word taken. -/
theorem stepRunsTheDecodedOperation : Obligations.StepRunsTheDecodedOperation := by
  intro s r rest i hv hr ha hp hd
  have hfetch : fetch s = .run i { s with port := rest } := by
    unfold fetch
    rw [hp]
    dsimp only
    rw [hd]
  exact step_of_fetch_run hv hr ha hfetch

/-- The opcodes of 30 R119: `decodeHost_illegal` says that the decoder takes no other. -/
def hostOpcodes : List Byte := [0x01, 0x02, 0x03, 0x04, 0x05, 0x06, 0x10, 0x11, 0x12, 0x13, 0x14, 0x15, 0x16, 0x18,
  0x19, 0x20, 0x21, 0x22, 0x28, 0x29, 0x2A, 0x2B]

theorem decodeHost_illegal (op : Byte) (bs : List Byte) (h : op ∉ hostOpcodes) :
    decodeHost op bs = .error .illegalOpcode := by
  have hne : ∀ n : Nat, op.toNat = n → BitVec.ofNat 8 n ∉ hostOpcodes := by
    rintro n rfl
    rwa [BitVec.ofNat_toNat, BitVec.setWidth_eq]
  unfold decodeHost
  split
  all_goals first
    | rfl
    | next hop => exact absurd (by decide) (hne _ hop)

/-- Settles O6: the decoder names the opcode illegal, and `fetch` answers it with the word taken and nothing else. -/
theorem illegalOpcodeDoesNothing : Obligations.IllegalOpcodeDoesNothing := by
  intro s op operands rest hv hr ha hp hop
  have hdecode : decode .host (op :: operands) = .error .illegalOpcode := by
    rw [decode, show decodePrefix .host (op :: operands) = decodeHost op operands from rfl, decodeHost_illegal op _ hop]
  have hfetch : fetch s = .illegal ({ s with port := rest }.hostCode .errIllegalOp) := by
    unfold fetch
    rw [hp]
    dsimp only
    rw [hdecode]
  exact step_of_fetch_illegal hv hr ha hfetch

theorem State.resetWith_registersOk (cfg : Config) (hv : cfg.valid = true) :
    (State.resetWith cfg).registersOk = true := by
  have hcap := Config.ringCap_ge cfg hv
  refine State.registersOk_iff.2 ⟨?_, ?_, Nat.zero_le _, Nat.zero_le _, fun h => by cases h⟩
  · change 0 < cfg.ringCap; omega
  · change 0 < cfg.ringCap; omega

/-- Settles O7: the registers of power-on one by one, and no word is waiting there. -/
theorem powerOnState : Obligations.PowerOnState := by
  have hinv : State.reset.Inv := by constructor <;> decide
  refine ⟨hinv, fun cfg => ⟨rfl, fun hv => ?_⟩⟩
  have hfetch : fetch (State.resetWith cfg) = .idle := rfl
  exact step_of_fetch_idle hv (State.resetWith_registersOk cfg hv) rfl hfetch

/-! ## The gate (46 R464) -/

/-- The gated operations all have one form: the gate, then a body that does not see the state before it (46 R464). -/
theorem exec_eq_gated (i : Instr) (h : i.gated = true) :
    ∃ f : State → State, ∀ s, exec i s = .next (s.gated f) := by
  cases i
  case service | poll | peek | read | readAny | readBuf | firstCid | available | availableAny | write | writeTo
    | sendCommand | readResponse | sendCommandExpectOk | connQuery | connSet | assocQuery | assocSet =>
    exact ⟨_, fun _ => rfl⟩
  all_goals cases h

theorem State.gated_stopped (s : State) (f : State → State) (h : s.lifecycle = .stopped) :
    s.gated f = { s with result := some (.record [0x01]) } := by
  rw [State.gated_eq, if_pos h]

theorem State.gated_dead (s : State) (f : State → State) (hl : s.lifecycle ≠ .stopped)
    (h : s.unrecoverable = true) : s.gated f = { s with result := some (.record [0x02]) } := by
  rw [State.gated_eq, if_neg hl, if_pos h]

/-- Settles O16: all gated operations have the gate's form, and its first two cases answer without the body. -/
theorem gateTurnsOperationsAway : Obligations.GateTurnsOperationsAway := by
  intro i s h
  obtain ⟨f, hf⟩ := exec_eq_gated i h
  rw [hf]
  exact ⟨fun hl => by rw [State.gated_stopped s f hl], fun hl hu => by rw [State.gated_dead s f hl hu]⟩

/-! ## What the operations on the micro port can do (30 R120) -/

theorem dropOnly.receive {s t : State} (h : dropOnly s t) : receiveOnly s t := by
  obtain ⟨_, _, _, _, rfl⟩ := h
  exact ⟨_, _, _, _, _, _, _, _, _, _, _, _, _, _, _, _, _, _, _, _, _, _, _, rfl⟩

theorem receiveOnly_pushHeader (h : FrameHeader) (s : State) : receiveOnly s (pushHeader h s) := by
  obtain ⟨_, _, _, _, _, _, he⟩ := pushHeader_frame h s
  rw [he]
  exact ⟨_, _, _, _, _, _, _, _, _, _, _, _, _, _, _, _, _, _, _, _, _, _, _, rfl⟩

theorem receiveOnly_pushByte (b : Byte) (s : State) : receiveOnly s (pushByte b s) := by
  obtain ⟨_, _, _, _, _, _, he⟩ := pushByte_frame b s
  rw [he]
  exact ⟨_, _, _, _, _, _, _, _, _, _, _, _, _, _, _, _, _, _, _, _, _, _, _, rfl⟩

theorem eventsOnly_clearEvents (s : State) : eventsOnly s (clearEvents s) := ⟨_, _, _, _, _, _, _, rfl⟩

/-- The four kinds of micro-operation: one on the registers of the receive path, the ring or the events; CODEC_RECV;
RESP_STEP on the line state; and one that waits on the link. -/
inductive MicroEnds (s : State) : State → Prop where
  | received (t : State) (r : Response) (h : receiveOnly s t) : MicroEnds s (t.respond r)
  | codec (t : State) (r : Response) (h : t = (codecRecv s).2) : MicroEnds s (t.respond r)
  | lined (l : LineState) (r : Response) : MicroEnds s ({ s with line := l }.respond r)
  | waits (a : Activity) (dr : DataResp) (w : Bool) :
      MicroEnds s ({ s with dataResp := dr, dataWait := w }.beginActivity a).resume

theorem micro_ends (i : Instr) (s : State) (h : i.port = .micro) : MicroEnds s (after i s) := by
  cases i with
  | codecSend b => exact .waits (.send [b] .codec) s.dataResp s.dataWait
  | codecRecv => exact .codec _ _ rfl
  | rxProcess b => exact .received _ _ (receiveOnly_rxProcess b s)
  | pushHeader hd => exact .received _ _ (receiveOnly_pushHeader hd s)
  | pushByte b => exact .received _ _ (receiveOnly_pushByte b s)
  | popHeader => exact .received _ _ (dropOnly_popHeader s).receive
  | popByte => exact .received _ _ (dropOnly_popByte s).receive
  | dropOldest n => exact .received _ _ (dropOnly_dropOldest n.toNat s).receive
  | advance => exact .received _ _ (dropOnly_advance s).receive
  | respStep c => exact .lined _ _
  | asyncDispatch t body => exact .received _ _ (eventsOnly_asyncDispatch t body s).receive
  | connConnect c ip rport lport ssl => exact .received _ _ (eventsOnly_connConnect c ip rport lport ssl s).receive
  | connDisconnect c => exact .received _ _ (eventsOnly_connDisconnect c s).receive
  | connFail c => exact .received _ _ (eventsOnly_connFail c s).receive
  | disassocCascade => exact .received _ _ (eventsOnly_disassocCascade s).receive
  | assocUpdate => exact .received _ _ (eventsOnly_assocUpdate s).receive
  | ncmConnect c => exact .received _ _ (eventsOnly_ncmConnect c s).receive
  | takeEvents => exact .received _ _ (eventsOnly_clearEvents s).receive
  | peekByte | availableBytes | classifyLine _ | parseInt _ _ _ | parseIp _ | formatFields _ =>
    exact .received _ _ (receiveOnly.refl s)
  | writeFrame c a data => exact .waits _ .none true
  | waitDataResp => exact .waits (.dataWait .wait) s.dataResp s.dataWait
  | _ => cases h

end Sys2Proof.Machine
end

section
/-! PROOFS. What every operation keeps of the mode and of the ports (10_state.md R31, R32, R51; log 7): the shared
operations of the host operations one by one, then the operations, and the statements about every operation and step. -/

namespace Sys2Proof.Machine

/-! ## The mode and the ports (10 R31, R32, R51; log 7) -/

theorem keepsMode.respond {s t : State} (h : keepsMode s t) (r : Response) : keepsMode s (t.respond r) :=
  h.trans ⟨rfl, rfl, rfl, rfl⟩

theorem keepsMode_gated {f : State → State} (hf : ∀ s, keepsMode s (f s)) (s : State) :
    keepsMode s (s.gated f) := by
  unfold State.gated
  split
  · exact (keepsMode.refl s).respond _
  · split
    · exact (keepsMode.refl s).respond _
    · exact hf s

theorem keepsMode_withOperand {α : Type} {s : State} {o : Option α} {f : α → State}
    (hf : ∀ v, keepsMode s (f v)) : keepsMode s (s.withOperand o f) := by
  cases o with
  | some v => exact hf v
  | none => exact (keepsMode.refl s).respond _

theorem keepsMode_pollOnce (s : State) : keepsMode s (pollOnce s).2 := by
  have hr := (codecOnly_codecRecv s).keeps
  unfold pollOnce
  dsimp only
  split
  · exact hr
  · split
    · exact hr
    · exact hr.trans (receiveOnly_rxProcess _ _).keeps

theorem keepsMode_advance (s : State) : keepsMode s (advance s) := (dropOnly_advance s).receive.keeps

theorem keepsMode_prepare (s : State) : keepsMode s (prepare s).2 := by
  have ha := keepsMode_advance s
  have hp := ha.trans (keepsMode_pollOnce _)
  unfold prepare
  dsimp only
  split
  · split
    · exact hp
    · exact hp.trans (keepsMode_advance _)
  · exact ha

theorem keepsMode_prepared {f : State → State} (hf : ∀ s, keepsMode s (f s)) (s : State) :
    keepsMode s (s.prepared f) := by
  have hp := keepsMode_prepare s
  unfold State.prepared
  dsimp only
  split
  · exact hp.trans (hf _)
  · exact hp.respond _

theorem keepsMode_forCid {f : State → State} (hf : ∀ s, keepsMode s (f s)) (c : Cid) (s : State) :
    keepsMode s (s.forCid c f) := by
  unfold State.forCid
  split
  · exact (keepsMode.refl s).respond _
  · split
    · exact (keepsMode.refl s).respond _
    · exact hf s

theorem keepsMode_answerByte (o : List Byte) (v : Option Byte) (s : State) : keepsMode s (s.answerByte o v) := by
  cases v <;> exact (keepsMode.refl s).respond _

theorem dropOnly_popBytes (k : Nat) (s : State) : dropOnly s (popBytes k s).2 := by
  induction k generalizing s with
  | zero => exact dropOnly.refl s
  | succ k ih => exact (dropOnly_popByte s).trans (ih _)

theorem keepsMode_serviceLoop (n : Nat) (s : State) : keepsMode s (serviceLoop n s).2 := by
  induction n generalizing s with
  | zero => exact .refl s
  | succ n ih =>
    have hp := keepsMode_pollOnce s
    unfold serviceLoop
    dsimp only
    split
    · exact hp
    · exact hp
    · split
      · exact hp
      · exact hp.trans (ih _)

/-- An operation that waits on the link begins with its activity, and then runs. -/
theorem keepsMode_begun {s t : State} (h : keepsMode s t) : keepsMode s t.resume := h.trans (keepsMode_resume t)

theorem keepsMode_beginActivity (a : Activity) (s : State) : keepsMode s (s.beginActivity a) := ⟨rfl, rfl, rfl, rfl⟩

theorem keepsMode_microEnds {s t : State} (h : MicroEnds s t) : keepsMode s t := by
  cases h with
  | received t r h => exact h.keeps.respond r
  | codec t r h => exact (h ▸ (codecOnly_codecRecv s).keeps).respond r
  | lined l r => exact ⟨rfl, rfl, rfl, rfl⟩
  | waits a dr w => exact keepsMode_begun ⟨rfl, rfl, rfl, rfl⟩

theorem keepsMode_of_gated {i : Instr} {s : State} {f : State → State} (he : exec i s = .next (s.gated f))
    (hf : ∀ s, keepsMode s (f s)) : keepsMode s (after i s) := after_of_exec he ▸ keepsMode_gated hf s

/-- Every operation but START, START_DONE and STOP keeps the mode; none of these takes a word. -/
theorem keepsMode_after (i : Instr) (s : State) (hstart : ∀ m, i ≠ .start m) (hdone : ∀ k, i ≠ .startDone k)
    (hstop : i ≠ .stop) : keepsMode s (after i s) := by
  by_cases hp : i.port = .micro
  · exact keepsMode_microEnds (micro_ends i s hp)
  have hreply : ∀ (s : State) (r : Response), keepsMode s (s.respond r) := fun s r => (keepsMode.refl s).respond r
  cases i with
  | start m => exact absurd rfl (hstart m)
  | startDone k => exact absurd rfl (hdone k)
  | stop => exact absurd rfl hstop
  | status => exact hreply s _
  | service =>
    refine keepsMode_of_gated rfl fun s => ?_
    have hl := keepsMode_serviceLoop s.cfg.serviceMaxIter s
    dsimp only
    split
    · exact (hl.trans (eventsOnly_clearEvents _).receive.keeps).respond _
    · exact hl.respond _
  | poll =>
    refine keepsMode_of_gated rfl fun s => ?_
    dsimp only
    split <;> exact (keepsMode_pollOnce s).respond _
  | peek c =>
    exact keepsMode_of_gated rfl fun s => keepsMode_withOperand fun c => keepsMode_prepared
      (keepsMode_forCid (fun s => keepsMode_answerByte _ _ s) c) s
  | read c =>
    exact keepsMode_of_gated rfl fun s => keepsMode_withOperand fun c => keepsMode_prepared
      (keepsMode_forCid (fun s => (dropOnly_popByte s).receive.keeps.trans (keepsMode_answerByte _ _ _)) c) s
  | readAny =>
    refine keepsMode_of_gated rfl (keepsMode_prepared fun s => ?_)
    split
    · exact hreply s _
    · exact (dropOnly_popByte s).receive.keeps.trans (keepsMode_answerByte _ _ _)
  | readBuf c n =>
    exact keepsMode_of_gated rfl fun s => keepsMode_withOperand fun c => keepsMode_prepared
      (keepsMode_forCid (fun s => (dropOnly_popBytes _ s).receive.keeps.respond _) c) s
  | firstCid =>
    refine keepsMode_of_gated rfl (keepsMode_prepared fun s => ?_)
    split <;> exact hreply s _
  | available c =>
    refine keepsMode_of_gated rfl fun s => keepsMode_withOperand fun c => keepsMode_prepared (fun s => ?_) s
    split <;> exact hreply s _
  | availableAny => exact keepsMode_of_gated rfl (keepsMode_prepared fun s => hreply s _)
  | write c data | writeTo c ip port data =>
    exact keepsMode_of_gated rfl fun s => keepsMode_withOperand fun c => keepsMode_begun (keepsMode_writeNext _ _ _ _ s)
  | sendCommand text | sendCommandExpectOk text =>
    exact keepsMode_of_gated rfl fun s => keepsMode_begun (keepsMode_beginActivity _ s)
  | readResponse m n =>
    refine keepsMode_of_gated rfl fun s => keepsMode_withOperand fun mode => ?_
    split
    · exact hreply s _
    · exact keepsMode_begun ⟨rfl, rfl, rfl, rfl⟩
  | connQuery c => exact keepsMode_of_gated rfl fun s => keepsMode_withOperand fun c => hreply s _
  | connSet c ip rport lport ssl =>
    exact keepsMode_of_gated rfl fun s => keepsMode_withOperand fun c => keepsMode_withOperand fun ssl =>
      (eventsOnly_connConnect _ _ _ _ _ s).receive.keeps.respond _
  | assocQuery => exact keepsMode_of_gated rfl fun s => hreply s _
  | assocSet => exact keepsMode_of_gated rfl fun s => (eventsOnly_assocUpdate s).receive.keeps.respond _
  | _ => exact absurd rfl hp

/-- START, START_DONE and STOP take no word and write no parameter, and START alone writes the link mode. -/
theorem after_lifecycle_operation (i : Instr) (s : State)
    (h : (∃ m, i = .start m) ∨ (∃ k, i = .startDone k) ∨ i = .stop) :
    (after i s).cfg = s.cfg ∧ (after i s).port = s.port
      ∧ ((∀ m, i ≠ .start m) → (after i s).linkMode = s.linkMode) := by
  obtain ⟨m, rfl⟩ | ⟨k, rfl⟩ | rfl := h
  · rw [after_of_exec (exec_start m s)]
    split
    · exact ⟨rfl, rfl, fun h => absurd rfl (h m)⟩
    · cases modeOperand m <;> exact ⟨rfl, rfl, fun h => absurd rfl (h m)⟩
  · rw [after_of_exec (show exec (.startDone k) s = .next (s.gated _) from rfl), State.gated_eq]
    split
    · exact ⟨rfl, rfl, fun _ => rfl⟩
    split
    · exact ⟨rfl, rfl, fun _ => rfl⟩
    split
    · exact ⟨rfl, rfl, fun _ => rfl⟩
    cases bitOperand k with
    | none => exact ⟨rfl, rfl, fun _ => rfl⟩
    | some done => cases done <;> exact ⟨rfl, rfl, fun _ => rfl⟩
  · exact ⟨rfl, rfl, fun _ => rfl⟩

theorem lifecycle_operation_or_not (i : Instr) : ((∃ m, i = .start m) ∨ (∃ k, i = .startDone k) ∨ i = .stop)
    ∨ ((∀ m, i ≠ .start m) ∧ (∀ k, i ≠ .startDone k) ∧ i ≠ .stop) := by
  by_cases h : (∃ m, i = .start m) ∨ (∃ k, i = .startDone k) ∨ i = .stop
  · exact .inl h
  · simp only [not_or, not_exists] at h
    exact .inr h

/-- Settles O10: START, START_DONE and STOP by what they write, every other operation because it keeps the mode. -/
theorem onlyLifecycleOperationsChangeTheMode : Obligations.OnlyLifecycleOperationsChangeTheMode := by
  intro i s t h
  rw [after_eq_of_exec h]
  obtain hi | ⟨h1, h2, h3⟩ := lifecycle_operation_or_not i
  · obtain ⟨hcfg, -, hmode⟩ := after_lifecycle_operation i s hi
    exact ⟨hcfg, hmode, fun h1 h2 h3 => by rcases hi with ⟨m, hi⟩ | ⟨k, hi⟩ | hi <;> simp_all⟩
  · have hk := keepsMode_after i s h1 h2 h3
    exact ⟨hk.cfg, fun _ => hk.linkMode, fun _ _ _ => hk.lifecycle⟩

theorem after_port (i : Instr) (s : State) : (after i s).port = s.port := by
  obtain hi | ⟨h1, h2, h3⟩ := lifecycle_operation_or_not i
  · exact (after_lifecycle_operation i s hi).2.1
  · exact (keepsMode_after i s h1 h2 h3).port

/-- Settles O5: a step that goes on with an operation keeps the ports, and one that takes a word takes the first. -/
theorem oneWordAtATime : Obligations.OneWordAtATime := by
  intro s t h
  cases step_ends h with
  | resumed a ha => exact ⟨fun _ => (keepsMode_resume s).port, fun hn => by rw [ha] at hn; cases hn⟩
  | idle ha hp => exact ⟨fun hn => absurd ha hn, fun _ => by rw [hp]; rfl⟩
  | illegal r rest ha hp => exact ⟨fun hn => absurd ha hn, fun _ => by rw [hp]; rfl⟩
  | ran i r rest ha hp hd =>
    refine ⟨fun hn => absurd ha hn, fun _ => ?_⟩
    rw [after_port, hp]
    rfl

end Sys2Proof.Machine
end

section
/-! PROOFS. A dead block (60_exceptions.md R485, R486): what stays frozen under every pass and every operation but
START and STOP, and the statements about it. -/

namespace Sys2Proof.Machine

/-! ## A dead block (60 R485, R486) -/

/-- The dead state and its cause, the environment and the trace are the same. -/
structure frozen (s t : State) : Prop where
  unrecoverable : t.unrecoverable = s.unrecoverable
  fatalCause : t.fatalCause = s.fatalCause
  env : t.env = s.env
  trace : t.trace = s.trace

theorem frozen.refl (s : State) : frozen s s := ⟨rfl, rfl, rfl, rfl⟩

theorem frozen.trans {s t u : State} (h : frozen s t) (h' : frozen t u) : frozen s u :=
  ⟨h'.1.trans h.1, h'.2.trans h.2, h'.3.trans h.3, h'.4.trans h.4⟩

theorem receiveOnly.frozen {s t : State} (h : receiveOnly s t) : Machine.frozen s t := by
  obtain ⟨_, _, _, _, _, _, _, _, _, _, _, _, _, _, _, _, _, _, _, _, _, _, _, rfl⟩ := h
  exact ⟨rfl, rfl, rfl, rfl⟩

theorem frozen_writeNext (c : Cid) (a : Option NetAddr) (data : List Byte) (n : Nat) (s : State) :
    frozen s (writeNext c a data n s) := by
  unfold writeNext
  repeat' split
  all_goals exact ⟨rfl, rfl, rfl, rfl⟩

theorem frozen_frameDone (k : FrameCaller) (c : ResultCode) (s : State) : frozen s (frameDone k c s) := by
  cases k with
  | frame => exact ⟨rfl, rfl, rfl, rfl⟩
  | wait => exact ⟨rfl, rfl, rfl, rfl⟩
  | write cid addr rest n =>
    have h0 : frozen s { s with dataWait := false } := ⟨rfl, rfl, rfl, rfl⟩
    unfold frameDone
    dsimp only
    split
    · exact h0.trans (frozen_writeNext _ _ _ _ _)
    · exact ⟨rfl, rfl, rfl, rfl⟩

theorem frozen_sendFailed (k : SendThen) (s : State) : frozen s (sendFailed k s) := by
  cases k with
  | frame caller => exact frozen_frameDone _ _ s
  | _ => exact ⟨rfl, rfl, rfl, rfl⟩

/-- Every pass tests for the dead state before it calls the link, and the calls it has made before are none. -/
theorem frozen_pass (a : Activity) (s : State) (h : s.unrecoverable = true) : frozen s (pass a s) := by
  cases a with
  | send tx k =>
    change frozen s (passSend tx k s)
    rw [passSend, if_pos h]
    exact frozen_sendFailed k s
  | response e =>
    change frozen s (passResponse e s)
    unfold passResponse
    rw [codecRecv_dead s h]
    dsimp only
    rw [if_pos h]
    exact ⟨rfl, rfl, rfl, rfl⟩
  | dataWait k =>
    change frozen s (passDataWait k s)
    unfold passDataWait
    split
    · exact frozen_frameDone _ _ s
    · exact frozen_frameDone _ _ s
    · rw [codecRecv_dead s h]
      dsimp only
      rw [if_pos h]
      exact frozen_frameDone _ _ s

theorem frozen_runActivity (n : Nat) (s : State) (h : s.unrecoverable = true) : frozen s (runActivity n s) := by
  induction n generalizing s with
  | zero => exact .refl s
  | succ n ih =>
    unfold runActivity
    split
    · exact .refl s
    · next a _ =>
      have hp := frozen_pass a s h
      exact hp.trans (ih _ (hp.unrecoverable.trans h))

theorem frozen_resume (s : State) (h : s.unrecoverable = true) : frozen s s.resume := frozen_runActivity _ s h

theorem frozen_begun {s t : State} (h : frozen s t) (hu : s.unrecoverable = true) : frozen s t.resume :=
  h.trans (frozen_resume t (h.unrecoverable.trans hu))

theorem frozen_microEnds {s t : State} (h : MicroEnds s t) (hu : s.unrecoverable = true) : frozen s t := by
  cases h with
  | received t r h => exact h.frozen.trans ⟨rfl, rfl, rfl, rfl⟩
  | codec t r h =>
    rw [codecRecv_dead s hu] at h
    exact h ▸ ⟨rfl, rfl, rfl, rfl⟩
  | lined l r => exact ⟨rfl, rfl, rfl, rfl⟩
  | waits a dr w => exact frozen_begun ⟨rfl, rfl, rfl, rfl⟩ hu

/-- A host operation other than START and STOP only answers on a dead block, and STATUS only answers anyway. -/
theorem after_host_of_dead (i : Instr) (s : State) (hp : i.port = .host) (hstart : ∀ m, i ≠ .start m)
    (hstop : i ≠ .stop) (hu : s.unrecoverable = true) : ∃ r, after i s = s.respond r := by
  have hgated : ∀ f, ∃ r, s.gated f = s.respond r := fun f => by
    rw [State.gated_eq, if_pos hu]
    split <;> exact ⟨_, rfl⟩
  by_cases hg : i.gated = true
  · obtain ⟨f, hf⟩ := exec_eq_gated i hg
    rw [after_of_exec (hf s)]
    exact hgated f
  · cases i with
    | start m => exact absurd rfl (hstart m)
    | startDone k =>
      obtain ⟨f, hf⟩ : ∃ f, exec (.startDone k) s = .next (s.gated f) := ⟨_, rfl⟩
      rw [after_of_exec hf]
      exact hgated f
    | stop => exact absurd rfl hstop
    | status => exact ⟨_, rfl⟩
    | _ => first | exact absurd rfl hg | cases hp

/-- On a dead block every operation but START and STOP keeps the dead state and leaves the link alone. -/
theorem frozen_after (i : Instr) (s : State) (hstart : ∀ m, i ≠ .start m) (hstop : i ≠ .stop)
    (hu : s.unrecoverable = true) : frozen s (after i s) := by
  cases hp : i.port with
  | micro => exact frozen_microEnds (micro_ends i s hp) hu
  | host =>
    obtain ⟨r, hr⟩ := after_host_of_dead i s hp hstart hstop hu
    rw [hr]
    exact ⟨rfl, rfl, rfl, rfl⟩

/-- START and STOP initialise registers and call no link primitive. -/
theorem after_start_or_stop_link (i : Instr) (s : State) (h : (∃ m, i = .start m) ∨ i = .stop) :
    (after i s).trace = s.trace ∧ (after i s).env = s.env := by
  obtain ⟨m, rfl⟩ | rfl := h
  · rw [after_of_exec (exec_start m s)]
    split
    · exact ⟨rfl, rfl⟩
    · cases modeOperand m <;> exact ⟨rfl, rfl⟩
  · exact ⟨rfl, rfl⟩

/-- Settles O11: START answers ERR_ALREADY_STARTED on a block that is not STOPPED; the rest keep the dead state. -/
theorem deadUntilStopped : Obligations.DeadUntilStopped := by
  intro i s t hu hl h3 h
  by_cases h1 : ∃ m, i = .start m
  · obtain ⟨m, rfl⟩ := h1
    rw [exec_start, if_pos hl] at h
    cases h
    exact ⟨hu, rfl⟩
  · have hf := frozen_after i s (not_exists.1 h1) h3 hu
    rw [after_eq_of_exec h]
    exact ⟨hf.unrecoverable.trans hu, hf.fatalCause⟩

/-- Settles O12: an operation in progress stays frozen, and so does a new one, or it is START or STOP. -/
theorem deadBlockLeavesTheLinkAlone : Obligations.DeadBlockLeavesTheLinkAlone := by
  intro s t hu h
  cases step_ends h with
  | resumed a ha =>
    have hf := frozen_resume s hu
    exact ⟨hf.trace, hf.env⟩
  | idle ha hp => exact ⟨rfl, rfl⟩
  | illegal r rest ha hp => exact ⟨rfl, rfl⟩
  | ran i r rest ha hp hd =>
    by_cases hi : (∃ m, i = .start m) ∨ i = .stop
    · exact after_start_or_stop_link i _ hi
    · obtain ⟨h1, h3⟩ := not_or.1 hi
      have hf := frozen_after i { s with port := rest } (not_exists.1 h1) h3 hu
      exact ⟨hf.trace, hf.env⟩

end Sys2Proof.Machine
end

section
/-! PROOFS. Every operation and every step keep the invariant of the registers (Safety.lean), from the lemmas of Laws/
about the shared operations. -/

namespace Sys2Proof.Machine

/-! ## The invariant of the registers -/

theorem State.Inv.of_exec {i : Instr} {s t : State} (he : exec i s = .next t) (h : t.Inv) : (after i s).Inv :=
  after_of_exec he ▸ h

theorem State.Inv.after_micro {s : State} (h : s.Inv) (i : Instr) (hp : i.port = .micro) : (after i s).Inv := by
  cases i with
  | codecSend b => exact (h.beginActivity _).resume
  | codecRecv => exact h.codecRecv.respond _
  | rxProcess b => exact (h.rxProcess b).respond _
  | pushHeader hd => exact (h.pushHeader hd).respond _
  | pushByte b => exact (h.pushByte b).respond _
  | popHeader => exact h.popHeader.respond _
  | popByte => exact h.popByte.respond _
  | dropOldest n => exact (h.dropOldest n.toNat).respond _
  | advance => exact h.advance.respond _
  | respStep c => exact (h.withLine _ (h.lineOk.respStep c)).respond _
  | asyncDispatch t body => exact (h.asyncDispatch t body).respond _
  | connConnect c ip rport lport ssl => exact (h.connConnect c ip rport lport ssl).respond _
  | connDisconnect c => exact (h.connDisconnect c).respond _
  | connFail c => exact (h.connFail c).respond _
  | disassocCascade => exact h.disassocCascade.respond _
  | assocUpdate => exact h.assocUpdate.respond _
  | ncmConnect c => exact (h.ncmConnect c).respond _
  | takeEvents => exact h.clearEvents.respond _
  | peekByte | availableBytes | classifyLine _ | parseInt _ _ _ | parseIp _ | formatFields _ => exact h.respond _
  | writeFrame c a data => exact (h.beginFrame c a data .frame).resume
  | waitDataResp => exact (h.beginActivity _).resume
  | _ => cases hp

theorem State.Inv.after_host {s : State} (h : s.Inv) (i : Instr) (hp : i.port = .host) : (after i s).Inv := by
  cases i with
  | start m =>
    refine .of_exec (exec_start m s) ?_
    split
    · exact h.hostCode _
    · exact h.withOperand _ _ fun m _ => ((h.startInit m).lifecycle _).hostOk _
  | startDone k =>
    refine .of_exec rfl (h.gated _ fun _ _ => ?_)
    split
    · exact h.hostCode _
    · refine h.withOperand _ _ fun done _ => ?_
      split
      · exact (h.lifecycle _).hostOk _
      · exact h.stopInit.hostOk _
  | stop => exact h.stopInit.hostOk _
  | status => exact h.hostOk _
  | service =>
    refine .of_exec rfl (h.gated _ fun _ _ => ?_)
    have hl := State.Inv.serviceLoop s.cfg.serviceMaxIter h
    dsimp only
    split
    · exact hl.clearEvents.hostOk _
    · exact hl.hostCode _
  | poll =>
    refine .of_exec rfl (h.gated _ fun _ _ => ?_)
    dsimp only
    split
    · exact h.pollOnce.hostOk _
    · exact h.pollOnce.hostCode _
    · exact h.pollOnce.hostCode _
  | peek c =>
    exact .of_exec rfl <| h.gated _ fun _ _ => h.withOperand _ _ fun c _ => h.prepared _ fun t ht =>
      ht.forCid c _ (ht.answerByte _ _)
  | read c =>
    exact .of_exec rfl <| h.gated _ fun _ _ => h.withOperand _ _ fun c _ => h.prepared _ fun t ht =>
      ht.forCid c _ (ht.popByte.answerByte _ _)
  | readAny =>
    refine .of_exec rfl <| h.gated _ fun _ _ => h.prepared _ fun t ht => ?_
    split
    · exact ht.hostCode _
    · exact ht.popByte.answerByte _ _
  | readBuf c n =>
    exact .of_exec rfl <| h.gated _ fun _ _ => h.withOperand _ _ fun c _ => h.prepared _ fun t ht =>
      ht.forCid c _ ((State.Inv.popBytes _ ht).hostOk _)
  | firstCid =>
    refine .of_exec rfl <| h.gated _ fun _ _ => h.prepared _ fun t ht => ?_
    split
    · exact ht.hostCode _
    · exact ht.hostOk _
  | available c =>
    refine .of_exec rfl <| h.gated _ fun _ _ => h.withOperand _ _ fun c _ => h.prepared _ fun t ht => ?_
    split <;> exact ht.hostOk _
  | availableAny => exact .of_exec rfl <| h.gated _ fun _ _ => h.prepared _ fun t ht => ht.hostOk _
  | write c data | writeTo c ip port data =>
    exact .of_exec rfl <| h.gated _ fun _ _ => h.withOperand _ _ fun c _ => (h.writeNext _ _ _ _).resume
  | sendCommand text | sendCommandExpectOk text =>
    exact .of_exec rfl <| h.gated _ fun _ _ => (h.beginActivity _).resume
  | readResponse m n =>
    refine .of_exec rfl <| h.gated _ fun _ _ => h.withOperand _ _ fun mode _ => ?_
    have hinternal := Config.maxRespLen_lt_internal _ h.config
    split
    · exact h.hostCode _
    · next hraw =>
      refine ((h.withLine _ (LineState.fresh_ok _ _ _ ?_)).beginActivity _).resume
      split
      · next hm => exact Nat.le_of_not_lt fun hn => hraw ⟨hm, hn⟩
      · exact hinternal
  | connQuery c => exact .of_exec rfl <| h.gated _ fun _ _ => h.withOperand _ _ fun c _ => h.hostOk _
  | connSet c ip rport lport ssl =>
    exact .of_exec rfl <| h.gated _ fun _ _ => h.withOperand _ _ fun c _ => h.withOperand _ _ fun ssl _ =>
      (h.connConnect _ _ _ _ _).hostOk _
  | assocQuery => exact .of_exec rfl <| h.gated _ fun _ _ => h.hostOk _
  | assocSet => exact .of_exec rfl <| h.gated _ fun _ _ => h.assocUpdate.hostOk _
  | _ => cases hp

theorem State.Inv.after {s : State} (h : s.Inv) (i : Instr) : (after i s).Inv := by
  cases hp : i.port with
  | micro => exact h.after_micro i hp
  | host => exact h.after_host i hp

/-- Settles O8: in each of the four ways a step can end. -/
theorem everyStepKeepsTheInvariant : Obligations.EveryStepKeepsTheInvariant := by
  intro s t h hstep
  cases step_ends hstep with
  | resumed a ha => exact h.resume
  | idle ha hp => exact h
  | illegal r rest ha hp => exact (h.port rest).hostCode _
  | ran i r rest ha hp hd => exact (h.port rest).after i

end Sys2Proof.Machine
end

section
/-! PROOFS. The host operations that do not touch the link (46_host_ops.md R461, R462, R464; 44_async_events.md R354 to
R358): the gate's operand test, and the statements about them. -/

namespace Sys2Proof.Machine

/-! ## Lifecycle (46 R461, R462) -/

theorem exec_startDone (ok : Byte) (s : State) : exec (.startDone ok) s = .next (s.gated fun s =>
    if s.lifecycle = .running then s.hostCode .errAlreadyStarted
    else s.withOperand (bitOperand ok) fun done =>
      if done then { s with lifecycle := .running }.hostOk [] else s.stopInit.hostOk []) := rfl

theorem exec_stop (s : State) : exec .stop s = .next (s.stopInit.hostOk []) := rfl

/-- Settles O14: STOP is what StopInit leaves; START_DONE has one case for each test, and two for the value of `ok`. -/
theorem stopAndStartDoneResults : Obligations.StopAndStartDoneResults := by
  refine ⟨fun s => rfl, fun ok s => ?_⟩
  rw [exec_startDone, exec_stop, State.gated_eq]
  split
  · rfl
  split
  · rfl
  split
  · rfl
  by_cases h1 : ok = 1
  · subst h1
    rfl
  · by_cases h0 : ok = 0
    · subst h0
      rfl
    · rw [if_neg h1, if_neg h0, bitOperand, if_neg h0, if_neg h1]
      rfl

/-! ## The operand test (46 R464 step 5) -/

/-- A gated operation on a started live block is its body. -/
theorem exec_of_alive {i : Instr} {s : State} {f : State → State} (ha : s.alive)
    (he : exec i s = .next (s.gated f)) : exec i s = .next (f s) := by
  rw [he, State.gated_alive s f ha]

theorem exec_of_operand {α : Type} {i : Instr} {s : State} {o : Option α} {v : α} {g : State → α → State}
    (ha : s.alive) (he : exec i s = .next (s.gated fun s => s.withOperand o (g s))) (ho : o = some v) :
    exec i s = .next (g s v) := by
  rw [exec_of_alive ha he, ho, State.withOperand_some]

theorem exec_of_bad_operand {α : Type} {i : Instr} {s : State} {o : Option α} {g : State → α → State}
    (ha : s.alive) (he : exec i s = .next (s.gated fun s => s.withOperand o (g s))) (ho : o = none) :
    exec i s = .next { s with result := some (.record [0x03]) } := by
  rw [exec_of_alive ha he, ho, State.withOperand_none]

theorem bitOperand_none (b : Byte) (h : 1 < b.toNat) : bitOperand b = none := by
  unfold bitOperand
  rw [if_neg (by bv_omega), if_neg (by bv_omega)]

theorem rmodeOperand_none (b : Byte) (h : 2 < b.toNat) : rmodeOperand b = none := by
  unfold rmodeOperand
  rw [if_neg (by bv_omega), if_neg (by bv_omega), if_neg (by bv_omega)]

/-- An operand that is tested behind another one. -/
theorem withOperand_of_none {α β : Type} (s : State) (o : Option α) (o' : Option β) (g : α → β → State)
    (ho : o' = none) :
    (s.withOperand o fun v => s.withOperand o' (g v)) = { s with result := some (.record [0x03]) } := by
  subst ho
  cases o <;> rfl

/-- Settles O17: each operation's first operand, CONN_SET's second, and the buffer of a RAW read. -/
theorem badOperandsAreRefused : Obligations.BadOperandsAreRefused := by
  intro s ha
  refine ⟨fun c n ip port port' ssl data hc i hi => ?cid, fun c ip port port' ssl hssl => ?ssl,
    fun rmode n hbad => ?rmode⟩
  case cid =>
    have hnone := cidOperand_none c hc
    simp only [List.mem_cons, List.not_mem_nil, or_false] at hi
    rcases hi with rfl | rfl | rfl | rfl | rfl | rfl | rfl | rfl
    all_goals exact exec_of_bad_operand ha rfl hnone
  case ssl =>
    exact (exec_of_alive ha rfl).trans
      (congrArg Host.Outcome.next (withOperand_of_none s _ _ _ (bitOperand_none ssl hssl)))
  case rmode =>
    rcases hbad with hbad | ⟨rfl, hsmall⟩
    · exact exec_of_bad_operand ha rfl (rmodeOperand_none rmode hbad)
    · exact (exec_of_operand ha rfl rfl).trans (congrArg Host.Outcome.next (if_pos ⟨rfl, hsmall⟩))

/-! ## The connection and association registers (44 R354 to R358) -/

theorem bitOperand_flag (b : Bool) : bitOperand (if b = true then 1 else 0) = some b := by cases b <;> rfl

theorem AssocEvent.code_byte (e : AssocEvent) : (e.code.setWidth 8 : Byte) =
    match e with | .none => 0 | .associated => 1 | .disassociated => 2 := by
  cases e <;> rfl

theorem NcmEvent.code_byte (e : NcmEvent) : (e.code.setWidth 8 : Byte) =
    match e with | .none => 0 | .connected => 1 | .disconnected => 2 := by
  cases e <;> rfl

/-- Settles O46: each operation is its body on a live block, and a u16 field is its two bytes. -/
theorem hostConnectionOperations : Obligations.HostConnectionOperations := by
  refine ⟨fun c s ha => ?query, fun s ha => ⟨fun c ip rport lport ssl => ?set,
    (exec_of_alive ha rfl).trans rfl, ?assoc⟩⟩
  case query =>
    refine (exec_of_operand ha rfl (cidOperand_cid c)).trans ?_
    rw [connRecord, halfBytes_eq, halfBytes_eq]
    rfl
  case set =>
    refine (exec_of_operand ha rfl (cidOperand_cid c)).trans ?_
    rw [bitOperand_flag]
    rfl
  case assoc =>
    refine (exec_of_alive ha rfl).trans ?_
    rw [AssocEvent.code_byte, NcmEvent.code_byte]
    rfl

end Sys2Proof.Machine
end

section
/-! PROOFS. The operation words (30_encoding.md R117 to R120): each operand field is read back exactly from the bytes that
`encode` gives it, so the decoder reads an operation exactly from its word; and the statements of both directions. -/

namespace Sys2Proof

/-! ## Reading operands one after the other -/

theorem Parsed.andThen_eq_ok {α β : Type} (p : Parsed α) (k : α → List Byte → Parsed β) (r : β × List Byte) :
    p.andThen k = .ok r ↔ ∃ a rest, p = .ok (a, rest) ∧ k a rest = .ok r := by
  rcases p with e | ⟨a, rest⟩ <;> simp [Parsed.andThen]

@[simp] theorem Parsed.ok_andThen {α β : Type} (a : α) (rest : List Byte) (k : α → List Byte → Parsed β) :
    Parsed.andThen (.ok (a, rest)) k = k a rest := rfl

/-! ## Fields of one size, read exactly (30 R117, R118; log 8) -/

theorem getByte_eq_ok (bs : List Byte) (b : Byte) (rest : List Byte) :
    getByte bs = .ok (b, rest) ↔ bs = b :: rest := by
  cases bs <;> simp [getByte]

theorem halfOf_eq_iff (lo hi : Byte) (h : Half) : halfOf lo hi = h ↔ lo = lowByte h ∧ hi = highByte h := by
  constructor
  · rintro rfl
    exact ⟨(BitVec.extractLsb'_append_eq_right).symm, (BitVec.extractLsb'_append_eq_left).symm⟩
  · rintro ⟨rfl, rfl⟩
    exact Machine.halfOf_bytes h

theorem getHalf_eq_ok (bs : List Byte) (h : Half) (rest : List Byte) :
    getHalf bs = .ok (h, rest) ↔ bs = halfBytes h ++ rest := by
  rcases bs with _ | ⟨lo, _ | ⟨hi, bs⟩⟩ <;> simp [getHalf, halfBytes, halfOf_eq_iff, and_assoc]

theorem getIp_eq_ok (bs : List Byte) (ip : IPv4) (rest : List Byte) :
    getIp bs = .ok (ip, rest) ↔ bs = ip.octets ++ rest := by
  rcases bs with _ | ⟨a, _ | ⟨b, _ | ⟨c, _ | ⟨d, bs⟩⟩⟩⟩ <;> cases ip <;> simp [getIp, IPv4.octets, and_assoc]

theorem eq_cidByte_iff (b : Byte) (c : Cid) : b = cidByte c ↔ b.toNat < 16 ∧ Fin.ofNat 16 b.toNat = c := by
  have hc := c.isLt
  unfold cidByte
  rw [BitVec.toNat_eq, BitVec.toNat_ofNat, Fin.ext_iff, Fin.val_ofNat]
  omega

theorem getCid_eq_ok (bs : List Byte) (c : Cid) (rest : List Byte) :
    getCid bs = .ok (c, rest) ↔ bs = cidByte c :: rest := by
  cases bs with
  | nil => simp [getCid]
  | cons b bs =>
    rw [List.cons.injEq, eq_cidByte_iff]
    simp only [getCid]
    split_ifs with h <;> simp [h]

theorem getFlag_eq_ok (bs : List Byte) (f : Bool) (rest : List Byte) :
    getFlag bs = .ok (f, rest) ↔ bs = flagByte f :: rest := by
  cases bs with
  | nil => simp [getFlag]
  | cons b bs =>
    simp only [getFlag]
    split_ifs <;> cases f <;> simp_all [flagByte]

theorem getWidth_eq_ok (bs : List Byte) (w : IntWidth) (rest : List Byte) :
    getWidth bs = .ok (w, rest) ↔ bs = widthByte w :: rest := by
  cases bs with
  | nil => simp [getWidth]
  | cons b bs =>
    simp only [getWidth]
    split_ifs <;> cases w <;> simp_all [widthByte]

/-- The bytes that a u16 length counts (30 R117): a byte string right behind it, or PARSE_INT's characters. -/
theorem counted_eq_ok {β : Type} (f : List Byte → β) (n : Half) (bs rest : List Byte) (v : β) :
    (if n.toNat ≤ bs.length then Except.ok (f (bs.take n.toNat), bs.drop n.toNat) else .error .truncated : Parsed β)
        = .ok (v, rest)
      ↔ ∃ data, fitsHalf data = true ∧ n = BitVec.ofNat 16 data.length ∧ bs = data ++ rest ∧ f data = v := by
  have hn := n.isLt
  constructor
  · intro h
    split at h
    · next hle =>
      cases h
      refine ⟨bs.take n.toNat, (Laws.fitsHalf_iff _).2 ?_, ?_, (List.take_append_drop ..).symm, rfl⟩
      · rw [List.length_take]; omega
      · rw [List.length_take, Nat.min_eq_left hle, BitVec.ofNat_toNat, BitVec.setWidth_eq]
    · cases h
  · rintro ⟨data, hfit, rfl, rfl, rfl⟩
    have hcount : (BitVec.ofNat 16 data.length).toNat = data.length :=
      Nat.mod_eq_of_lt ((Laws.fitsHalf_iff data).1 hfit)
    rw [hcount, List.length_append, if_pos (Nat.le_add_right _ _), List.take_left, List.drop_left]

theorem getData_eq_ok (bs data rest : List Byte) :
    getData bs = .ok (data, rest) ↔ bs = dataBytes data ++ rest ∧ fitsHalf data = true := by
  have hcounted (n : Half) (bs : List Byte) := counted_eq_ok id n bs rest data
  simp only [id] at hcounted
  simp only [getData, Parsed.andThen_eq_ok, getHalf_eq_ok, hcounted, dataBytes, List.append_assoc]
  constructor
  · rintro ⟨_, _, rfl, _, hfit, rfl, rfl, rfl⟩
    exact ⟨rfl, hfit⟩
  · rintro ⟨rfl, hfit⟩
    exact ⟨_, _, rfl, _, hfit, rfl, rfl, rfl⟩

/-! ## The same, as rules for a word that `encode` has written -/

section
variable (rest : List Byte)

@[simp] theorem getByte_cons (b : Byte) : getByte (b :: rest) = .ok (b, rest) := rfl

@[simp] theorem getHalf_halfBytes (h : Half) : getHalf (halfBytes h ++ rest) = .ok (h, rest) :=
  (getHalf_eq_ok ..).2 rfl

@[simp] theorem getIp_octets (ip : IPv4) : getIp (ip.octets ++ rest) = .ok (ip, rest) := (getIp_eq_ok ..).2 rfl

@[simp] theorem getCid_cidByte (c : Cid) : getCid (cidByte c :: rest) = .ok (c, rest) := (getCid_eq_ok ..).2 rfl

@[simp] theorem getFlag_flagByte (f : Bool) : getFlag (flagByte f :: rest) = .ok (f, rest) := (getFlag_eq_ok ..).2 rfl

@[simp] theorem getWidth_widthByte (w : IntWidth) : getWidth (widthByte w :: rest) = .ok (w, rest) :=
  (getWidth_eq_ok ..).2 rfl

theorem getData_dataBytes {data : List Byte} (h : fitsHalf data = true) :
    getData (dataBytes data ++ rest) = .ok (data, rest) := (getData_eq_ok ..).2 ⟨rfl, h⟩

end

/-! ## Fields with parts -/

theorem getHeader_eq_ok (bs : List Byte) (h : FrameHeader) (rest : List Byte) :
    getHeader bs = .ok (h, rest) ↔ bs = headerOperand h ++ rest := by
  constructor
  · intro hread
    simp only [getHeader, Parsed.andThen_eq_ok, getCid_eq_ok, getHalf_eq_ok, getFlag_eq_ok, getIp_eq_ok] at hread
    obtain ⟨_, _, rfl, _, _, rfl, _, _, rfl, _, _, rfl, _, _, rfl, hread⟩ := hread
    cases hread
    simp [headerOperand]
  · rintro rfl
    simp [getHeader, headerOperand]

@[simp] theorem getHeader_headerOperand (h : FrameHeader) (rest : List Byte) :
    getHeader (headerOperand h ++ rest) = .ok (h, rest) := (getHeader_eq_ok ..).2 rfl

theorem getAddr_eq_ok (bs : List Byte) (a : Option NetAddr) (rest : List Byte) :
    getAddr bs = .ok (a, rest) ↔ bs = addrOperand a ++ rest := by
  constructor
  · intro hread
    simp only [getAddr, Parsed.andThen_eq_ok, getFlag_eq_ok] at hread
    obtain ⟨present, _, rfl, hread⟩ := hread
    cases present with
    | false => cases hread; rfl
    | true =>
      simp only [if_true, Parsed.andThen_eq_ok, getIp_eq_ok, getHalf_eq_ok] at hread
      obtain ⟨_, _, rfl, _, _, rfl, hread⟩ := hread
      cases hread
      simp [addrOperand, flagByte]
  · rintro rfl
    cases a with
    | none => rfl
    | some a =>
      change getAddr (flagByte true :: ((a.ip.octets ++ halfBytes a.port) ++ rest)) = _
      simp [getAddr]

@[simp] theorem getAddr_addrOperand (a : Option NetAddr) (rest : List Byte) :
    getAddr (addrOperand a ++ rest) = .ok (a, rest) := (getAddr_eq_ok ..).2 rfl

theorem eq_ofNat_of_toNat {b : Byte} {n : Nat} (h : b.toNat = n) : b = BitVec.ofNat 8 n := by
  rw [← h, BitVec.ofNat_toNat, BitVec.setWidth_eq]

theorem getForm_eq_ok (bs : List Byte) (f : FormatArg) (rest : List Byte) :
    getForm bs = .ok (f, rest) ↔ bs = formOperand f ++ rest := by
  constructor
  · intro hread
    simp only [getForm, Parsed.andThen_eq_ok, getByte_eq_ok] at hread
    obtain ⟨form, bs, rfl, hread⟩ := hread
    split at hread
    case h_8 => cases hread
    all_goals
      next hform =>
      obtain rfl := eq_ofNat_of_toNat hform
      simp only [Parsed.andThen_eq_ok, getCid_eq_ok, getHalf_eq_ok, getIp_eq_ok, getHeader_eq_ok] at hread
      repeat obtain ⟨_, _, rfl, hread⟩ : ∃ _ _, _ ∧ _ := hread
      cases hread
      simp [formOperand]
  · rintro rfl
    cases f <;> simp [formOperand, getForm]

@[simp] theorem getForm_formOperand (f : FormatArg) (rest : List Byte) :
    getForm (formOperand f ++ rest) = .ok (f, rest) := (getForm_eq_ok ..).2 rfl

/-! ## Operations, read exactly from their words -/

theorem decodeHost_eq_ok (op : Byte) (bs : List Byte) (i : Instr) (rest : List Byte) :
    decodeHost op bs = .ok (i, rest) ↔ op :: bs = encode i ++ rest ∧ i.wellFormed = true ∧ i.port = .host := by
  constructor
  · intro hread
    unfold decodeHost at hread
    split at hread
    case h_23 => cases hread
    all_goals
      next hop =>
      obtain rfl := eq_ofNat_of_toNat hop
      try simp only [Parsed.andThen_eq_ok, getByte_eq_ok, getHalf_eq_ok, getIp_eq_ok, getData_eq_ok, and_assoc] at hread
      repeat first
        | obtain ⟨_, _, rfl, hread⟩ : ∃ _ _, _ ∧ _ := hread
        | obtain ⟨_, hread⟩ : _ ∧ _ := hread
      cases hread
      refine ⟨?_, ?_, rfl⟩
      · simp [encode]
      · simp only [Instr.wellFormed, *]
  · rintro ⟨hword, hwf, hport⟩
    cases i <;> cases hport
    all_goals
      simp only [encode, List.cons_append, List.nil_append, List.append_assoc, List.cons.injEq] at hword
      obtain ⟨rfl, rfl⟩ := hword
      simp only [Instr.wellFormed] at hwf
      simp [decodeHost, getData_dataBytes, *]

/-- PARSE_INT has two operands between the length and the characters that it counts. -/
theorem decodeMicro_parseInt (bs : List Byte) (i : Instr) (rest : List Byte) :
    decodeMicro 0x95 bs = .ok (i, rest) ↔ ∃ base width chars, fitsHalf chars = true
      ∧ bs = halfBytes (BitVec.ofNat 16 chars.length) ++ base :: widthByte width :: (chars ++ rest)
      ∧ Instr.parseInt base width chars = i := by
  change (getHalf bs).andThen _ = _ ↔ _
  simp only [Parsed.andThen_eq_ok, getHalf_eq_ok, getByte_eq_ok, getWidth_eq_ok, counted_eq_ok]
  constructor
  · rintro ⟨_, _, rfl, base, _, rfl, width, _, rfl, chars, hfit, rfl, rfl, rfl⟩
    exact ⟨base, width, chars, hfit, rfl, rfl⟩
  · rintro ⟨base, width, chars, hfit, rfl, rfl⟩
    exact ⟨_, _, rfl, base, _, rfl, width, _, rfl, chars, hfit, rfl, rfl, rfl⟩

theorem decodeMicro_eq_ok (op : Byte) (bs : List Byte) (i : Instr) (rest : List Byte) :
    decodeMicro op bs = .ok (i, rest) ↔ op :: bs = encode i ++ rest ∧ i.wellFormed = true ∧ i.port = .micro := by
  constructor
  · intro hread
    have hparseInt : op = 0x95 → op :: bs = encode i ++ rest ∧ i.wellFormed = true ∧ i.port = .micro := by
      rintro rfl
      obtain ⟨base, width, chars, hfit, rfl, rfl⟩ := (decodeMicro_parseInt ..).1 hread
      exact ⟨by simp [encode], hfit, rfl⟩
    unfold decodeMicro at hread
    split at hread
    case h_22 hop => exact hparseInt (eq_ofNat_of_toNat hop)
    case h_27 => cases hread
    all_goals
      next hop =>
      obtain rfl := eq_ofNat_of_toNat hop
      clear hparseInt
      try simp only [Parsed.andThen_eq_ok, getByte_eq_ok, getHalf_eq_ok, getIp_eq_ok, getData_eq_ok, getCid_eq_ok,
        getFlag_eq_ok, getHeader_eq_ok, getAddr_eq_ok, getForm_eq_ok, and_assoc] at hread
      repeat first
        | obtain ⟨_, _, rfl, hread⟩ : ∃ _ _, _ ∧ _ := hread
        | obtain ⟨_, hread⟩ : _ ∧ _ := hread
      cases hread
      refine ⟨?_, ?_, rfl⟩
      · simp [encode]
      · simp only [Instr.wellFormed, *]
  · rintro ⟨hword, hwf, hport⟩
    cases i <;> cases hport
    all_goals
      simp only [encode, List.cons_append, List.nil_append, List.append_assoc, List.cons.injEq] at hword
      obtain ⟨rfl, rfl⟩ := hword
      simp only [Instr.wellFormed] at hwf
    case mpr.parseInt.refl => exact (decodeMicro_parseInt ..).2 ⟨_, _, _, hwf, rfl, rfl⟩
    all_goals simp [decodeMicro, getData_dataBytes, *]

theorem decodePrefix_eq_ok (port : PortKind) (bs : List Byte) (i : Instr) (rest : List Byte) :
    decodePrefix port bs = .ok (i, rest) ↔ bs = encode i ++ rest ∧ i.wellFormed = true ∧ i.port = port := by
  have hcode : encode i ++ rest ≠ [] := by cases i <;> simp [encode]
  cases bs with
  | nil => simp [decodePrefix, hcode.symm]
  | cons op bs =>
    cases port with
    | host => exact decodeHost_eq_ok op bs i rest
    | micro => exact decodeMicro_eq_ok op bs i rest

/-- The decoder reads an operation from its word on its port, and from nothing else. -/
theorem decode_eq_ok (port : PortKind) (word : List Byte) (i : Instr) :
    decode port word = .ok i ↔ word = encode i ∧ i.wellFormed = true ∧ i.port = port := by
  have hwhole : decode port word = .ok i ↔ decodePrefix port word = .ok (i, []) := by
    unfold decode
    split <;> simp_all
  rw [hwhole, decodePrefix_eq_ok, List.append_nil]

/-- Settles O1. -/
theorem decodeOfEncode : Obligations.DecodeOfEncode :=
  fun _ hwf => (decode_eq_ok ..).2 ⟨rfl, hwf, rfl⟩

/-- Settles O2. -/
theorem encodeOfDecode : Obligations.EncodeOfDecode := by
  intro port word i h
  obtain ⟨hword, hwf, hport⟩ := (decode_eq_ok ..).1 h
  exact ⟨hword.symm, hwf, hport⟩

/-- Settles O3: each word is the word of its operation, and the decoder reads it by computation. -/
theorem wordsWrittenOut : Obligations.WordsWrittenOut := ⟨rfl, rfl, rfl, rfl, rfl, rfl, rfl, rfl, rfl⟩

end Sys2Proof
end

section
/-! PROOFS. PARSE_INT answers the value its characters spell (O47): the overflow test after every digit agrees with one
test of the whole value, because a digit more never makes the value smaller. -/

namespace Sys2Proof.Machine

theorem spelledIn_ge (base : Nat) (hbase : 1 ≤ base) (chars : List Byte) :
    ∀ v w : Nat, spelledIn base chars v = some w → v ≤ w := by
  induction chars with
  | nil =>
    intro v w h
    exact (Option.some.inj h).le
  | cons ch rest ih =>
    intro v w h
    unfold spelledIn at h
    split at h
    next d _ =>
      split at h
      · have hmul : v ≤ v * base := Nat.le_mul_of_pos_right v hbase
        have := ih _ _ h
        omega
      · cases h
    next => cases h

theorem parseDigits_eq_spelledIn (base bits : Nat) (hbase : 1 ≤ base) (chars : List Byte) :
    ∀ v : Nat, v < 2 ^ bits →
      parseDigits base bits chars v = (spelledIn base chars v).filter fun w => decide (w < 2 ^ bits) := by
  induction chars with
  | nil =>
    intro v hv
    simp [parseDigits, spelledIn, Option.filter, hv]
  | cons ch rest ih =>
    intro v hv
    unfold parseDigits spelledIn
    cases digitValue ch with
    | none => rfl
    | some d =>
      by_cases hd : base ≤ d
      · simp [hd, Nat.not_lt.2 hd]
      · by_cases hover : 2 ^ bits ≤ v * base + d
        · have hbig : ∀ w, spelledIn base rest (v * base + d) = some w → 2 ^ bits ≤ w := fun w hw =>
            hover.trans (spelledIn_ge base hbase rest _ _ hw)
          have hnone : (spelledIn base rest (v * base + d)).filter (fun w => decide (w < 2 ^ bits)) = none := by
            cases hw : spelledIn base rest (v * base + d) with
            | none => rfl
            | some w => simp [Option.filter, Nat.not_lt.2 (hbig w hw)]
          simp [hd, hover, Nat.not_le.1 hd, hnone]
        · simp [hd, hover, Nat.not_le.1 hd, ih _ (Nat.not_le.1 hover)]

/-- Settles O47. -/
theorem parseIntValue : Obligations.ParseIntValue := by
  intro base width chars s
  rw [exec_parseInt]
  have hvalue : parseInt chars base.toNat (widthBits width) =
      if base.toNat < 2 ∨ 36 < base.toNat then none
      else (spelledIn base.toNat chars 0).filter fun v => decide (v < 2 ^ widthBits width) := by
    unfold parseInt
    split
    · rfl
    · next hbase => exact parseDigits_eq_spelledIn _ _ (by omega) chars 0 (Nat.two_pow_pos _)
  rw [hvalue]
  cases width <;> rfl

end Sys2Proof.Machine
end


section
/-! PROOFS. The dispatch of async records (44_async_events.md R340 to R342, R353): by the code of the body, or rejected
(O45); and the association cascade, reported once (O43). -/

namespace Sys2Proof.Machine

theorem exec_asyncDispatch (subtype : Cid) (body : List Byte) (s : State) : exec (.asyncDispatch subtype body) s =
    .next ((asyncDispatch subtype body s).2.respond (.dispatched (asyncDispatch subtype body s).1)) := rfl

/-! ## The body without its terminators (44 R342) -/

theorem isTerminator_iff (b : Byte) : isTerminator b = true ↔ b = chCR ∨ b = chLF := by
  simp [isTerminator]

theorem stripBody_append (line ends : List Byte) (hends : ∀ b ∈ ends, b = chCR ∨ b = chLF)
    (hline : ∀ b ∈ line.getLast?, b ≠ chCR ∧ b ≠ chLF) : stripBody (line ++ ends) = line := by
  have hdrop : ∀ b ∈ ends.reverse, isTerminator b = true := fun b hb =>
    (isTerminator_iff b).2 (hends b (List.mem_reverse.1 hb))
  have hkeep : line.reverse.dropWhile isTerminator = line.reverse := by
    cases hrev : line.reverse with
    | nil => rfl
    | cons b rest =>
      have hlast : b ∈ line.getLast? := by
        rw [← List.head?_reverse, hrev]
        rfl
      obtain ⟨hCR, hLF⟩ := hline b hlast
      exact List.dropWhile_cons_of_neg (by simp [isTerminator_iff, hCR, hLF])
  rw [stripBody, List.reverse_append, List.dropWhile_append_of_pos hdrop, hkeep, List.reverse_reverse]

/-! ## What the dispatch does -/

section
variable {subtype : Cid} {body : List Byte} {c : Nat} {name : RespName} {args : List Cid} {s : State}

theorem asyncDispatch_accepted (hne : stripBody body ≠ [])
    (hk : classifyLine s.cfg (stripBody body) = .code c name args) (hsub : s.cfg.subtype c = some subtype) {t : State}
    (ht : eventEffect name args s = some t) : asyncDispatch subtype body s = (true, t) := by
  simp only [asyncDispatch, if_neg hne, hk, if_pos hsub, ht]

theorem asyncDispatch_no_event (hne : stripBody body ≠ [])
    (hk : classifyLine s.cfg (stripBody body) = .code c name args) (hname : eventEffect name args s = none) :
    asyncDispatch subtype body s = rejectEvent s := by
  simp only [asyncDispatch, if_neg hne, hk, hname, ite_self]

theorem asyncDispatch_other_subtype (hne : stripBody body ≠ [])
    (hk : classifyLine s.cfg (stripBody body) = .code c name args) (hsub : s.cfg.subtype c ≠ some subtype) :
    asyncDispatch subtype body s = rejectEvent s := by
  simp only [asyncDispatch, if_neg hne, hk, if_neg hsub]

theorem asyncDispatch_no_code (h : stripBody body = [] ∨ classifyLine s.cfg (stripBody body) = .unknown) :
    asyncDispatch subtype body s = rejectEvent s := by
  by_cases hne : stripBody body = []
  · simp only [asyncDispatch, if_pos hne]
  · simp only [asyncDispatch, if_neg hne, h.resolve_left hne]

theorem exec_asyncDispatch_accepted (hne : stripBody body ≠ [])
    (hk : classifyLine s.cfg (stripBody body) = .code c name args) (hsub : s.cfg.subtype c = some subtype) {t : State}
    (ht : eventEffect name args s = some t) :
    exec (.asyncDispatch subtype body) s = .next { t with result := some (.dispatched true) } := by
  rw [exec_asyncDispatch, asyncDispatch_accepted hne hk hsub ht]
  rfl

/-- An accepted event has the effect of its micro-operation. -/
theorem exec_asyncDispatch_event (hne : stripBody body ≠ [])
    (hk : classifyLine s.cfg (stripBody body) = .code c name args) (hsub : s.cfg.subtype c = some subtype) {i : Instr}
    {t : State} (hi : exec i s = .next (t.respond .none)) (ht : eventEffect name args s = some t) :
    exec (.asyncDispatch subtype body) s = .next { after i s with result := some (.dispatched true) } := by
  rw [exec_asyncDispatch_accepted hne hk hsub ht, after_of_exec hi]
  rfl

theorem exec_asyncDispatch_rejected (h : asyncDispatch subtype body s = rejectEvent s) :
    exec (.asyncDispatch subtype body) s =
      .next { s with log := .asyncReject :: s.log, result := some (.dispatched false) } := by
  rw [exec_asyncDispatch, h]
  rfl

end

/-- Settles O45: an event code of the header's subtype has its effect, and every other record is rejected; a body is
classified without its trailing terminators. -/
theorem asyncDispatchByCode : Obligations.AsyncDispatchByCode := by
  refine ⟨fun subtype body c name args s hne hk => ?code, fun subtype line ends s hends hline hno => ?malformed⟩
  case code =>
    intro a accepted rejected
    by_cases hsub : s.cfg.subtype c = some subtype
    · rw [if_pos hsub]
      have hrejected := fun h => exec_asyncDispatch_rejected (asyncDispatch_no_event (subtype := subtype) hne hk h)
      cases name with
      | conSuccess => exact exec_asyncDispatch_event hne hk hsub (exec_connConnect ..) rfl
      | sockFail => exact exec_asyncDispatch_event hne hk hsub (exec_connFail ..) rfl
      | ecidclose => exact exec_asyncDispatch_event hne hk hsub (exec_connDisconnect ..) rfl
      | disassoEvt | noip => exact exec_asyncDispatch_event hne hk hsub (exec_disassocCascade s) rfl
      | nwconnSuccess => exact exec_asyncDispatch_event hne hk hsub (exec_ncmConnect ..) rfl
      | stbyTmrEvt | stbyAlmEvt | dpsleepEvt | bootUnexpec | bootInternal | bootExternal =>
        exact exec_asyncDispatch_accepted hne hk hsub rfl
      | success | failure | einval | enocid | ebadcid | enotsup | linkLost => exact hrejected rfl
    · rw [if_neg hsub]
      exact exec_asyncDispatch_rejected (asyncDispatch_other_subtype hne hk hsub)
  case malformed =>
    refine exec_asyncDispatch_rejected (asyncDispatch_no_code ?_)
    rw [stripBody_append line ends hends hline]
    exact hno

/-! ## The association cascade (44 R353) -/

/-- The cascade with `associated` 1, no event pending, and an NCM CID that is not connected. -/
theorem after_disassocCascade_associated (s : State) (hassoc : s.associated = true) (hap : s.assocPending = .none)
    (hnp : s.ncmPending = .none) (hncm : s.ncmValid = true → s.conn[s.ncmCid].connected = false) :
    let t := after .disassocCascade s
    t.conn = s.conn.map Conn.dropped ∧ t.assocPending = .disassociated ∧ t.ncmPending = .none
      ∧ t.ncmCid = s.ncmCid := by
  have hfree : (s.ncmValid && s.conn[s.ncmCid].connected) = false := by
    cases hv : s.ncmValid with
    | false => rfl
    | true => exact hncm hv
  rw [after_of_exec (cascadeDisconnectsEveryCid s)]
  exact ⟨rfl, by simp [hassoc, hap], by simp only [hfree, hnp, Bool.false_eq_true, if_false], rfl⟩

/-- TAKE_EVENTS, by the events that are pending. -/
theorem after_takeEvents_pending (s : State) (a : AssocEvent) (n : NcmEvent) (ha : s.assocPending = a)
    (hn : s.ncmPending = n) :
    let t := after .takeEvents s
    t.result = some (.events ((0 : BitVec 4) ++ bit (decide (n = .connected)) ++ bit (decide (a = .associated))
        ++ bit (decide (a = .disassociated)) ++ bit (decide (n = .disconnected))) s.ncmCid)
      ∧ t.assocPending = .none ∧ t.ncmPending = .none ∧ t.ncmCid = s.ncmCid := by
  subst ha hn
  exact ⟨rfl, rfl, rfl, rfl⟩

/-- Settles O43: the cascade leaves the disassociation as the one pending event, and TAKE_EVENTS clears it. -/
theorem cascadeIsReportedOnce : Obligations.CascadeIsReportedOnce := by
  intro subtype body c name args s hassoc hap hnp hncm hk hne hname hsub t u
  have heffect : eventEffect name args s = some (disassocCascade s) := by
    obtain rfl | rfl := hname <;> rfl
  have ht : t = { after .disassocCascade s with result := some (.dispatched true) } :=
    after_of_exec (exec_asyncDispatch_event hne hk hsub (exec_disassocCascade s) heffect)
  obtain ⟨hconn, hpending, hncmPending, hcid⟩ := after_disassocCascade_associated s hassoc hap hnp hncm
  have hconn' : t.conn = s.conn.map Conn.dropped := by rw [ht, hconn]
  obtain ⟨honce, hap', hnp', hcid'⟩ :=
    after_takeEvents_pending t .disassociated .none (by rw [ht, hpending]) (by rw [ht, hncmPending])
  obtain ⟨hnever, -⟩ := after_takeEvents_pending u .none .none hap' hnp'
  have htcid : t.ncmCid = s.ncmCid := by rw [ht, hcid]
  refine ⟨by rw [ht], fun k hk => ?_, by rw [honce, htcid]; rfl, by rw [hnever, hcid', htcid]; rfl⟩
  have hentry : t.conn[k] = (s.conn[k]).dropped := by
    simp only [hconn', Fin.getElem_fin, Vector.getElem_map]
  rw [hentry, Conn.dropped, if_pos hk]
  exact ⟨rfl, rfl⟩

end Sys2Proof.Machine
end

section
/-! PROOFS. The receive state machine on every byte (41_receive_sm.md R190, R202; O23), on a malformed header (R200; O25),
and on an async record (R194, R195; O27). -/

namespace Sys2Proof.Machine

/-! ## What RX_PROCESS answers -/

theorem rxProcess_result (b : Byte) (s : State) :
    (rxProcess b s).1 = if s.rxState = .idle ∧ b ≠ s.cfg.escChar then .line b else .absorbed := by
  cases hs : s.rxState with
  | idle =>
    rw [rxProcess_idle b hs, rxIdle]
    by_cases hb : b = s.cfg.escChar
    · simp [hb]
    · simp [hb]
  | escape => simp [rxProcess_escape b hs]
  | escapeZ => simp [rxProcess_escapeZ b hs]
  | escapeA => simp [rxProcess_escapeA b hs]
  | escapeY1 => simp [rxProcess_escapeY1 b hs]
  | escapeY2 => simp [rxProcess_escapeY2 b hs]
  | escapeY3 => simp [rxProcess_escapeY3 b hs]
  | async => simp [rxProcess, hs]
  | bulk => simp [rxProcess_bulk b hs]

/-- Settles O23. -/
theorem receiveClassifiesEveryByte : Obligations.ReceiveClassifiesEveryByte := by
  intro b s
  refine ⟨_, exec_rxProcess b s, ?_⟩
  rw [State.respond_result, rxProcess_result]
  obtain ⟨_, _, _, _, _, _, _, _, _, _, _, _, _, _, _, _, _, _, _, _, _, _, _, ht⟩ := receiveOnly_rxProcess b s
  rw [ht]
  exact ⟨rfl, rfl, rfl, rfl, rfl, rfl, rfl, rfl, rfl, rfl, rfl, rfl, rfl, rfl, rfl⟩

/-! ## Fields that do not parse (41 R193 to R198) -/

theorem parseHexCid_eq_none {ch : Byte} (h : parseInt [ch] 16 8 = none) : parseHexCid ch = none := by
  rw [parseHexCid, h, Option.map_none]

theorem parseDec16_eq_none {chars : List Byte} (h : parseInt chars 10 16 = none) : parseDec16 chars = none := by
  rw [parseDec16, h, Option.map_none]

theorem parseFullIp_eq_none {chars : List Byte} (h : ∀ ip : IPv4, parseIp chars ≠ some ⟨4, ip⟩) :
    parseFullIp chars = none := by
  unfold parseFullIp
  split
  next a ha =>
    refine if_neg fun hfour => h a.ip ?_
    rw [ha, ← hfour]
  next => rfl

/-- The cells of a field, the last of which is written now. -/
theorem Memory.readN_write_last (m : Memory) (a n : Nat) (b : Byte) (hm : m.wf = true) :
    (m.write (a + n) b).readN a (n + 1) = ((List.range n).map fun k => m.read (a + k)) ++ [b] := by
  rw [Memory.readN_eq_map, List.range_succ, List.map_append, List.map_singleton, Memory.read_write_same _ _ _ hm]
  congr 1
  refine List.map_congr_left fun k hk => Memory.read_write_other _ _ _ _ hm ?_
  have := List.mem_range.1 hk
  omega

section
variable {b : Byte} {s : State}

theorem rxEscapeZ_fails (hl : s.scratchLen = 4)
    (h : parseHexCid ((s.scratch.write 4 b).read 0) = none ∨ parseDec16 ((s.scratch.write 4 b).readN 1 4) = none) :
    rxEscapeZ b s = parseFail { s with scratch := s.scratch.write 4 b } := by
  have hpush : pushScratch b s = { s with scratch := s.scratch.write 4 b, scratchLen := 5 } := by
    rw [pushScratch, hl]
  rw [rxEscapeZ, hpush, if_neg (by simp)]
  simp only [scratchSlice]
  split
  next hcid hlen => exact absurd h (by simp [hcid, hlen])
  next => rfl

theorem rxEscapeA_fails (hl : s.scratchLen = 2)
    (h : parseHexCid ((s.scratch.write 2 b).read 0) = none
      ∨ parseInt ((s.scratch.write 2 b).readN 1 2) asyncLenBase 8 = none) :
    rxEscapeA b s = parseFail { s with scratch := s.scratch.write 2 b } := by
  have hpush : pushScratch b s = { s with scratch := s.scratch.write 2 b, scratchLen := 3 } := by
    rw [pushScratch, hl]
  rw [rxEscapeA, hpush, if_neg (by simp)]
  simp only [scratchSlice]
  split
  next hcid hlen => exact absurd h (by simp [hcid, hlen])
  next => rfl

theorem rxEscapeY1_full (hl : s.scratchLen = 16) (hb : b ≠ chSP) : rxEscapeY1 b s = parseFail s := by
  rw [rxEscapeY1, if_neg hb, if_pos (show s.scratchLen = scratchSize from hl)]

theorem rxEscapeY1_fails (hb : b = chSP) (h : s.scratchLen < 2 ∨ parseHexCid (s.scratch.read 0) = none
    ∨ parseFullIp (s.scratch.readN 1 (s.scratchLen - 1)) = none) : rxEscapeY1 b s = parseFail s := by
  rw [rxEscapeY1, if_pos hb]
  split
  · rfl
  next hlong =>
    simp only [scratchSlice]
    split
    next hcid hip => exact absurd h (by simp [hlong, hcid, hip])
    next => rfl

theorem rxEscapeY2_full (hl : s.scratchLen = 5) (hb : b ≠ chHT) : rxEscapeY2 b s = parseFail s := by
  rw [rxEscapeY2, if_neg hb, if_pos hl]

theorem rxEscapeY2_fails (hb : b = chHT) (h : s.scratchLen = 0 ∨ parseDec16 (s.scratch.readN 0 s.scratchLen) = none) :
    rxEscapeY2 b s = parseFail s := by
  rw [rxEscapeY2, if_pos hb]
  split
  · rfl
  next hlong =>
    simp only [scratchSlice, h.resolve_left hlong]

theorem rxEscapeY3_fails (hl : s.scratchLen = 3) (h : parseDec16 ((s.scratch.write 3 b).readN 0 4) = none) :
    rxEscapeY3 b s = parseFail { s with scratch := s.scratch.write 3 b } := by
  have hpush : pushScratch b s = { s with scratch := s.scratch.write 3 b, scratchLen := 4 } := by
    rw [pushScratch, hl]
  rw [rxEscapeY3, hpush, if_neg (by simp)]
  simp only [scratchSlice, h]
  rfl

/-- A header that does not parse, in the state that its last byte leaves. -/
theorem exec_rxProcess_parseFail {t : State} (h : rxProcess b s = (.absorbed, parseFail t)) :
    exec (.rxProcess b) s = .next { t with
      scratchLen := 0, rxState := .idle, log := .hdrParseFail :: t.log, result := some (.rx .absorbed) } := by
  rw [exec_rxProcess, h]
  rfl

end

/-- Settles O25: in each header state the parser that fails answers none, whatever the others answer. -/
theorem malformedHeaderIsDropped : Obligations.MalformedHeaderIsDropped := by
  intro b s u cells
  refine ⟨fun hw hs hl h => ?z, fun hw hs hl h => ?a, fun hs hl hb => ?y1full, fun hs hb h => ?y1,
    fun hs hl hb => ?y2full, fun hs hb h => ?y2, fun hw hs hl h => ?y3⟩
  case z =>
    refine exec_rxProcess_parseFail (t := { s with scratch := s.scratch.write 4 b }) ?_
    rw [rxProcess_escapeZ b hs, rxEscapeZ_fails hl]
    refine h.imp (fun hcid => ?_) fun hlen => ?_
    · rw [Memory.read_write_other _ _ _ _ hw (by decide)]
      exact parseHexCid_eq_none hcid
    · rw [Memory.readN_write_last s.scratch 1 3 b hw]
      exact parseDec16_eq_none hlen
  case a =>
    refine exec_rxProcess_parseFail (t := { s with scratch := s.scratch.write 2 b }) ?_
    rw [rxProcess_escapeA b hs, rxEscapeA_fails hl]
    refine h.imp (fun hcid => ?_) fun hlen => ?_
    · rw [Memory.read_write_other _ _ _ _ hw (by decide)]
      exact parseHexCid_eq_none hcid
    · rw [Memory.readN_write_last s.scratch 1 1 b hw]
      exact hlen
  case y1full =>
    refine exec_rxProcess_parseFail ?_
    rw [rxProcess_escapeY1 b hs, rxEscapeY1_full hl hb]
  case y1 =>
    refine exec_rxProcess_parseFail ?_
    rw [rxProcess_escapeY1 b hs, rxEscapeY1_fails hb]
    refine h.imp_right (Or.imp parseHexCid_eq_none fun hip => ?_)
    rw [Memory.readN_eq_map]
    exact parseFullIp_eq_none hip
  case y2full =>
    refine exec_rxProcess_parseFail ?_
    rw [rxProcess_escapeY2 b hs, rxEscapeY2_full hl hb]
  case y2 =>
    refine exec_rxProcess_parseFail ?_
    rw [rxProcess_escapeY2 b hs, rxEscapeY2_fails hb]
    refine h.imp_right fun hport => ?_
    rw [Memory.readN_eq_map]
    exact parseDec16_eq_none hport
  case y3 =>
    refine exec_rxProcess_parseFail (t := { s with scratch := s.scratch.write 3 b }) ?_
    rw [rxProcess_escapeY3 b hs, rxEscapeY3_fails hl]
    rw [Memory.readN_write_last s.scratch 0 3 b hw]
    exact parseDec16_eq_none h

/-! ## Operations on the events in another state

The operations of 44_async_events.md read the event registers, the connection table and the parameters alone: in any
state with the event registers of `s` they leave what they leave in `s`. -/

/-- The state with the connection table, the event registers and the log of another. -/
def State.withEventsOf (t s : State) : State :=
  { t with
    conn := s.conn, associated := s.associated, assocPending := s.assocPending, ncmPending := s.ncmPending
    ncmValid := s.ncmValid, ncmCid := s.ncmCid, log := s.log }

section
variable (t s : State)

theorem connDisconnect_withEventsOf (c : Cid) :
    connDisconnect c (t.withEventsOf s) = t.withEventsOf (connDisconnect c s) := by
  by_cases h : (s.connAt c).connected = true
  · by_cases hn : s.ncmValid = true ∧ s.ncmCid = c
    · rw [connDisconnect_of_ncm h hn, connDisconnect_of_ncm (s := t.withEventsOf s) h hn]
      rfl
    · rw [connDisconnect_of_not_ncm h hn, connDisconnect_of_not_ncm (s := t.withEventsOf s) h hn]
      rfl
  · rw [connDisconnect_of_not_connected h, connDisconnect_of_not_connected (s := t.withEventsOf s) h]

theorem connConnect_withEventsOf (c : Cid) (ip : IPv4) (rport lport : Half) (ssl : Bool) :
    connConnect c ip rport lport ssl (t.withEventsOf s) = t.withEventsOf (connConnect c ip rport lport ssl s) := by
  rw [connConnect, connDisconnect_withEventsOf]
  rfl

theorem connFail_withEventsOf (c : Cid) : connFail c (t.withEventsOf s) = t.withEventsOf (connFail c s) :=
  connDisconnect_withEventsOf t (s.setConn c { s.connAt c with error := true }) c

theorem cascadeOne_withEventsOf (c : Cid) : cascadeOne (t.withEventsOf s) c = t.withEventsOf (cascadeOne s c) := by
  by_cases h : (s.connAt c).connected = true
  · rw [cascadeOne_of_connected h, cascadeOne_of_connected (s := t.withEventsOf s) h, connFail_withEventsOf]
  · rw [cascadeOne_of_not_connected h, cascadeOne_of_not_connected (s := t.withEventsOf s) h]

theorem foldl_cascadeOne_withEventsOf (cs : List Cid) :
    cs.foldl cascadeOne (t.withEventsOf s) = t.withEventsOf (cs.foldl cascadeOne s) := by
  induction cs generalizing s with
  | nil => rfl
  | cons c cs ih => rw [List.foldl_cons, cascadeOne_withEventsOf, ih, List.foldl_cons]

theorem disassocCascade_withEventsOf : disassocCascade (t.withEventsOf s) = t.withEventsOf (disassocCascade s) := by
  rw [disassocCascade, foldl_cascadeOne_withEventsOf, disassocCascade]
  generalize (List.finRange 16).foldl cascadeOne s = u
  by_cases h : u.associated = true
  · rw [if_pos h, if_pos (show (t.withEventsOf u).associated = true from h)]
    rfl
  · rw [if_neg h, if_neg (show ¬ (t.withEventsOf u).associated = true from h)]

theorem assocUpdate_withEventsOf : assocUpdate (t.withEventsOf s) = t.withEventsOf (assocUpdate s) := by
  by_cases h : s.associated = true
  · rw [assocUpdate_of_associated h, assocUpdate_of_associated (s := t.withEventsOf s) h]
  · rw [assocUpdate_of_not_associated h, assocUpdate_of_not_associated (s := t.withEventsOf s) h]
    rfl

theorem ncmConnect_withEventsOf (c : Cid) : ncmConnect c (t.withEventsOf s) = t.withEventsOf (ncmConnect c s) := by
  have hu : t.withEventsOf (connConnect c IPv4.zero 0 0 false (assocUpdate s)) =
      connConnect c IPv4.zero 0 0 false (assocUpdate (t.withEventsOf s)) := by
    rw [assocUpdate_withEventsOf, connConnect_withEventsOf]
  rw [ncmConnect_eq_edges c s _ rfl, ncmConnect_eq_edges c (t.withEventsOf s) _ hu]
  rfl

theorem eventEffect_withEventsOf (name : RespName) (args : List Cid) :
    eventEffect name args (t.withEventsOf s) = (eventEffect name args s).map t.withEventsOf := by
  cases name with
  | conSuccess => exact congrArg some (connConnect_withEventsOf ..)
  | sockFail => exact congrArg some (connFail_withEventsOf ..)
  | ecidclose => exact congrArg some (connDisconnect_withEventsOf ..)
  | disassoEvt | noip => exact congrArg some (disassocCascade_withEventsOf t s)
  | nwconnSuccess => exact congrArg some (ncmConnect_withEventsOf ..)
  | stbyTmrEvt | stbyAlmEvt | dpsleepEvt | bootUnexpec | bootInternal | bootExternal => rfl
  | success | failure | einval | enocid | ebadcid | enotsup | linkLost => rfl

theorem asyncDispatch_withEventsOf (hcfg : t.cfg = s.cfg) (subtype : Cid) (body : List Byte) :
    (asyncDispatch subtype body (t.withEventsOf s)).2 = t.withEventsOf (asyncDispatch subtype body s).2 := by
  by_cases hne : stripBody body = []
  · rw [asyncDispatch_no_code (.inl hne), asyncDispatch_no_code (.inl hne)]
    rfl
  have hcfg' : (t.withEventsOf s).cfg = s.cfg := hcfg
  cases hk : classifyLine s.cfg (stripBody body) with
  | unknown =>
    rw [asyncDispatch_no_code (.inr hk), asyncDispatch_no_code (.inr (hcfg' ▸ hk))]
    rfl
  | code c name args =>
    have hk' : classifyLine (t.withEventsOf s).cfg (stripBody body) = .code c name args := hcfg' ▸ hk
    by_cases hsub : s.cfg.subtype c = some subtype
    · have heffect := eventEffect_withEventsOf t s name args
      cases he : eventEffect name args s with
      | none =>
        rw [he] at heffect
        rw [asyncDispatch_no_event hne hk he, asyncDispatch_no_event hne hk' heffect]
        rfl
      | some u =>
        rw [he] at heffect
        rw [asyncDispatch_accepted hne hk hsub he, asyncDispatch_accepted hne hk' (hcfg' ▸ hsub) heffect]
    · rw [asyncDispatch_other_subtype hne hk hsub, asyncDispatch_other_subtype hne hk' (hcfg' ▸ hsub)]
      rfl

end

/-! ## Async records (41 R194, R195) -/

/-- The two length digits of an async header (30 R105). -/
theorem parseInt_two_digits (n : Nat) (hn : n < 100) :
    parseInt [decChar (n / 10), decChar (n % 10)] asyncLenBase 8 = some n := by
  have hvalue : n / 10 * 10 + n % 10 = n := by omega
  rw [asyncLenBase, parseInt_base10, parseDigits_decChar _ _ _ _ (by omega) (by omega), Nat.zero_mul, Nat.zero_add,
    parseDigits_decChar _ _ _ _ (by omega) (by omega), hvalue]
  rfl

/-- The state in the Async arm once the bytes have been received. -/
def State.receiving (s : State) (subtype : Cid) (n : Nat) (bytes : List Byte) : State :=
  { s with
    rxState := .async, asyncSubtype := subtype, asyncLen := n, asyncBuf := s.asyncBuf.writeList 0 bytes
    asyncCount := bytes.length, scratchLen := 0, result := some (.rx .absorbed) }

theorem after_rxProcess_async (b : Byte) (s : State) (h : s.rxState = .async) :
    after (.rxProcess b) s = (rxAsync b s).respond (.rx .absorbed) := by
  rw [after_rxProcess, rxProcess, h]

/-- The Async arm, in the state with the byte stored. -/
theorem rxAsync_of_stored {b : Byte} {s t : State}
    (ht : { s with asyncBuf := s.asyncBuf.write s.asyncCount b, asyncCount := s.asyncCount + 1 } = t) :
    rxAsync b s = if t.asyncCount = t.asyncLen then
      { (asyncDispatch t.asyncSubtype (t.asyncBuf.readN 0 t.asyncLen) t).2 with asyncCount := 0, rxState := .idle }
      else t := by
  subst ht
  rfl

theorem rxAsync_receiving (b : Byte) (s : State) (subtype : Cid) (n : Nat) (bytes : List Byte) :
    rxAsync b (s.receiving subtype n bytes) =
      let t := s.receiving subtype n (bytes ++ [b])
      if bytes.length + 1 = n then
        { (asyncDispatch subtype (t.asyncBuf.readN 0 n) t).2 with asyncCount := 0, rxState := .idle }
      else t := by
  have hstore : { s.receiving subtype n bytes with
      asyncBuf := (s.receiving subtype n bytes).asyncBuf.write (s.receiving subtype n bytes).asyncCount b
      asyncCount := (s.receiving subtype n bytes).asyncCount + 1 } = s.receiving subtype n (bytes ++ [b]) := by
    simp [State.receiving, Memory.writeList_snoc]
  have hcount : (s.receiving subtype n (bytes ++ [b])).asyncCount = bytes.length + 1 := by simp [State.receiving]
  rw [rxAsync_of_stored hstore, hcount]
  rfl

theorem after_rxProcess_receiving (b : Byte) (s : State) (subtype : Cid) (n : Nat) (bytes : List Byte)
    (hn : bytes.length + 1 < n) :
    after (.rxProcess b) (s.receiving subtype n bytes) = s.receiving subtype n (bytes ++ [b]) := by
  rw [after_rxProcess_async _ _ rfl, rxAsync_receiving, if_neg (by omega)]
  rfl

theorem feed_receiving (bs : List Byte) (s : State) (subtype : Cid) (n : Nat) (bytes : List Byte)
    (hn : bytes.length + bs.length < n) :
    feed bs (s.receiving subtype n bytes) = s.receiving subtype n (bytes ++ bs) := by
  induction bs generalizing bytes with
  | nil => rw [List.append_nil]; rfl
  | cons b bs ih =>
    rw [List.length_cons] at hn
    rw [feed, after_rxProcess_receiving b s subtype n bytes (by omega), ih _ (by simp; omega), List.append_assoc,
      List.singleton_append]

/-- The last byte of the body dispatches the record. -/
theorem after_rxProcess_receiving_last (b : Byte) (s : State) (subtype : Cid) (bytes : List Byte)
    (hw : s.asyncBuf.wf = true) :
    after (.rxProcess b) (s.receiving subtype (bytes.length + 1) bytes) =
      { (asyncDispatch subtype (bytes ++ [b]) (s.receiving subtype (bytes.length + 1) (bytes ++ [b]))).2 with
        asyncCount := 0, rxState := .idle, result := some (.rx .absorbed) } := by
  have hbody : (s.receiving subtype (bytes.length + 1) (bytes ++ [b])).asyncBuf.readN 0 (bytes.length + 1) =
      bytes ++ [b] := by
    have h := Memory.readN_writeList (bytes ++ [b]) s.asyncBuf 0 hw
    rwa [List.length_append] at h
  rw [after_rxProcess_async _ _ rfl, rxAsync_receiving, if_pos rfl, hbody]
  rfl

/-- The header of an async record (30 R105). -/
def asyncHeader (cfg : Config) (subtype : Cid) (n : Nat) : List Byte :=
  [cfg.escChar, cfg.introA] ++ [hexU subtype, decChar (n / 10), decChar (n % 10)]

/-- The state with the characters of such a header read. -/
def State.asyncHeaded (s : State) (subtype : Cid) (n : Nat) : State :=
  { s.collecting .escapeA [hexU subtype, decChar (n / 10), decChar (n % 10)] with scratchLen := 0 }

/-- The EscapeA arm, in the state with the third character stored. -/
theorem rxEscapeA_of_stored {b : Byte} {s t : State} {subtype : Cid} {n : Nat} (ht : pushScratch b s = t)
    (hfull : ¬ t.scratchLen < 3) (hsub : parseHexCid (t.scratch.read 0) = some subtype)
    (hn : parseInt (scratchSlice t 1 2) asyncLenBase 8 = some n) :
    rxEscapeA b s = if n = 0 then { (asyncDispatch subtype [] { t with scratchLen := 0 }).2 with rxState := .idle }
      else { t with scratchLen := 0, asyncSubtype := subtype, asyncLen := n, asyncCount := 0, rxState := .async } := by
  rw [rxEscapeA, ht, if_neg hfull, hsub, hn]

/-- After its last byte an empty body is dispatched at once, and another is awaited. -/
theorem feed_asyncHeader (subtype : Cid) (n : Nat) (s : State) (hd : lettersDiffer s.cfg) (hidle : s.rxState = .idle)
    (hw : s.scratch.wf = true) (hn : n ≤ 99) : feed (asyncHeader s.cfg subtype n) s =
      if n = 0 then { (asyncDispatch subtype [] (s.asyncHeaded subtype n)).2 with
        rxState := .idle, result := some (.rx .absorbed) }
      else (s.asyncHeaded subtype n).receiving subtype n [] := by
  have hstores : ∀ b ∈ [hexU subtype, decChar (n / 10)], ∀ k < 2, storesNext .escapeA k b := fun _ _ _ hk => hk
  obtain ⟨hread, hslice⟩ := collecting_scratch_cons s .escapeA (hexU subtype) [decChar (n / 10), decChar (n % 10)] hw
  have hpush : pushScratch (decChar (n % 10)) (s.collecting .escapeA [hexU subtype, decChar (n / 10)]) =
      s.collecting .escapeA [hexU subtype, decChar (n / 10), decChar (n % 10)] := pushScratch_collecting ..
  have hsub := (congrArg parseHexCid hread).trans (parseHexCid_hexU subtype)
  have hlen := (congrArg (parseInt · asyncLenBase 8) hslice).trans (parseInt_two_digits n (by omega))
  have harm := rxEscapeA_of_stored hpush (Nat.lt_irrefl 3) hsub hlen
  have hsplit : asyncHeader s.cfg subtype n =
      [s.cfg.escChar, s.cfg.introA] ++ ([hexU subtype, decChar (n / 10)] ++ [decChar (n % 10)]) := rfl
  rw [hsplit, feed_append, (feed_introducer s hd hidle).2.1, feed_snoc, feed_collecting _ s .escapeA hstores,
    after_rxProcess, rxProcess_escapeA _ rfl, harm]
  by_cases hzero : n = 0
  · rw [if_pos hzero, if_pos hzero]
    rfl
  · rw [if_neg hzero, if_neg hzero]
    rfl

/-- The state differs in the registers that an async record is received in. -/
def recordOnly (s t : State) : Prop :=
  ∃ (rx : RxState) (sc : Memory) (sub : Cid) (al : Nat) (ab : Memory) (ac : Nat) (r : Option Response), t = { s with
    rxState := rx, scratch := sc, scratchLen := 0, asyncSubtype := sub, asyncLen := al, asyncBuf := ab
    asyncCount := ac, result := r }

/-- A record dispatched among those registers has the effect that it has in the state before. -/
theorem recordOnly_dispatched {s v : State} (h : recordOnly s v) (subtype : Cid) (body : List Byte) (ac : Nat) :
    recordOnly (asyncDispatch subtype body s).2
      { (asyncDispatch subtype body v).2 with asyncCount := ac, rxState := .idle, result := some (.rx .absorbed) } := by
  have hv : v.withEventsOf s = v := by
    obtain ⟨_, _, _, _, _, _, _, rfl⟩ := h
    rfl
  have hcfg : v.cfg = s.cfg := by
    obtain ⟨_, _, _, _, _, _, _, rfl⟩ := h
    rfl
  have hdispatch := asyncDispatch_withEventsOf v s hcfg subtype body
  rw [hv] at hdispatch
  rw [hdispatch]
  obtain ⟨_, _, _, _, _, _, _, hevents⟩ := eventsOnly_asyncDispatch subtype body s
  rw [hevents]
  obtain ⟨_, _, _, _, _, _, _, rfl⟩ := h
  exact ⟨_, _, _, _, _, _, _, rfl⟩

/-- A whole record leaves Idle, and what ASYNC_DISPATCH leaves. -/
theorem feed_asyncRecord (subtype : Cid) (body : List Byte) (s : State) (hd : lettersDiffer s.cfg)
    (hidle : s.rxState = .idle) (hw : s.scratch.wf = true) (ha : s.asyncBuf.wf = true) (hn : body.length ≤ 99) :
    (feed (asyncHeader s.cfg subtype body.length ++ body) s).rxState = .idle
      ∧ recordOnly (asyncDispatch subtype body s).2 (feed (asyncHeader s.cfg subtype body.length ++ body) s) := by
  rw [feed_append, feed_asyncHeader subtype body.length s hd hidle hw hn]
  obtain rfl | ⟨pre, last, rfl⟩ := body.eq_nil_or_concat'
  · exact ⟨rfl, recordOnly_dispatched ⟨_, _, _, _, _, _, _, rfl⟩ _ _ _⟩
  · have hlen : (pre ++ [last]).length = pre.length + 1 := by simp
    rw [hlen, if_neg (Nat.succ_ne_zero _), feed_snoc, feed_receiving pre _ subtype _ [] (by simp), List.nil_append,
      after_rxProcess_receiving_last last (s.asyncHeaded _ _) subtype pre ha]
    exact ⟨rfl, recordOnly_dispatched ⟨_, _, _, _, _, _, _, rfl⟩ _ _ _⟩

/-- Settles O27. -/
theorem asyncRecordIsDispatchedWhole : Obligations.AsyncRecordIsDispatchedWhole := by
  intro subtype body s h hd hidle hn t u
  obtain ⟨hrx, hrecord⟩ := feed_asyncRecord subtype body s hd hidle h.scratch_form h.async_form hn
  obtain ⟨_, _, _, _, _, _, _, ht⟩ := hrecord
  have hu : u = (asyncDispatch subtype body s).2.respond (.dispatched (asyncDispatch subtype body s).1) :=
    after_of_exec (exec_asyncDispatch subtype body s)
  obtain ⟨_, _, _, _, _, _, _, hevents⟩ := eventsOnly_asyncDispatch subtype body s
  refine ⟨hrx, ?_⟩
  rw [show t = _ from ht, hu, hevents]
  exact ⟨rfl, rfl, rfl, rfl, rfl, rfl, rfl, rfl, rfl, rfl, rfl, rfl⟩

end Sys2Proof.Machine
end

section
/-! PROOFS. The read operations (46_host_ops.md R420, R421, R430 to R436): what Poll and Prepare do by what the link
answers, what each operation does in the state that Prepare leaves, and with these O52, O53 and O54. -/

namespace Sys2Proof.Machine

/-! ## Poll and Prepare -/

section
variable {s t : State}

theorem pollOnce_dead {r : Option Byte} (h : codecRecv s = (r, t)) (hu : t.unrecoverable = true) :
    pollOnce s = (.dead, t) := by
  rw [pollOnce, h]
  simp only [hu, if_true]

theorem pollOnce_noByte (h : codecRecv s = (none, t)) (hu : t.unrecoverable = false) :
    pollOnce s = (.noByte, t) := by
  rw [pollOnce, h]
  simp only [hu, Bool.false_eq_true, if_false]

theorem pollOnce_byte {b : Byte} (h : codecRecv s = (some b, t)) (hu : t.unrecoverable = false) :
    pollOnce s = (.byte, (rxProcess b t).2) := by
  rw [pollOnce, h]
  simp only [hu, Bool.false_eq_true, if_false]

/-- The state once LinkRead has answered from the script (00 R9). -/
def State.afterRead (s : State) (a : Option Byte) (rest : List (Option Byte)) : State :=
  { s with env := { s.env with linkReads := rest }, trace := .read a :: s.trace }

theorem State.Inv.afterRead (h : s.Inv) (a : Option Byte) (rest : List (Option Byte)) : (s.afterRead a rest).Inv :=
  (h.env { s.env with linkReads := rest }).note (.read a)

theorem codecRecv_stream_script (hu : s.unrecoverable = false) (hm : s.linkMode = .stream) {a : Option Byte}
    {rest : List (Option Byte)} (h : s.env.linkReads = a :: rest) : codecRecv s = (a, s.afterRead a rest) := by
  rw [codecRecv_stream s hu hm, linkRead_script s a rest h, State.afterRead]

theorem advance_eq_self (h : s.advanced) : advance s = s := advanceLoop_of_advanced _ s h

theorem State.advanced_of_live (h : 0 < s.tail.length.toNat) : s.advanced := fun hgo =>
  absurd ((length_toNat_eq_zero _).2 hgo.1) (by omega)

theorem State.advanced_of_used (h : s.used = 0) : s.advanced := fun hgo => absurd hgo.2 (by omega)

theorem prepare_buffered (hl : 0 < s.tail.length.toNat) (hu : 0 < s.used) : prepare s = (true, s) := by
  rw [prepare, advance_eq_self (State.advanced_of_live hl), availableBytes_eq, if_neg (by omega)]

theorem prepare_of_poll (hd : s.advanced) (hz : availableBytes s = 0) {p : PollResult} (hp : pollOnce s = (p, t))
    (halive : p ≠ .dead) : prepare s = (true, advance t) := by
  rw [prepare, advance_eq_self hd, if_pos hz, hp]
  exact if_neg halive

theorem prepare_of_dead (hd : s.advanced) (hz : availableBytes s = 0) (hp : pollOnce s = (.dead, t)) :
    prepare s = (false, t) := by
  rw [prepare, advance_eq_self hd, if_pos hz, hp]
  exact if_pos rfl

theorem State.prepared_alive (h : prepare s = (true, t)) (f : State → State) : s.prepared f = f t := by
  rw [State.prepared, h]
  exact if_pos rfl

theorem State.prepared_dead (h : prepare s = (false, t)) (f : State → State) :
    s.prepared f = { t with result := some (.record [0x02]) } := by
  rw [State.prepared, h]
  exact if_neg Bool.false_ne_true

/-! ## The tests for a CID -/

theorem State.forCid_empty (h : s.tail.length.toNat = 0) (c : Cid) (f : State → State) :
    s.forCid c f = { s with result := some (.record [0x06]) } := if_pos ((length_toNat_eq_zero _).1 h)

theorem State.forCid_other {c : Cid} (h : 0 < s.tail.length.toNat) (hc : s.tail.cid ≠ c) (f : State → State) :
    s.forCid c f = { s with result := some (.record [0x05]) } := by
  rw [State.forCid, if_neg (by rw [← length_toNat_eq_zero]; omega), if_pos hc]
  rfl

theorem State.forCid_same {c : Cid} (h : 0 < s.tail.length.toNat) (hc : s.tail.cid = c) (f : State → State) :
    s.forCid c f = f s := by
  rw [State.forCid, if_neg (by rw [← length_toNat_eq_zero]; omega), if_neg (not_not.2 hc)]

theorem peekByte_buffered (hl : 0 < s.tail.length.toNat) (hu : 0 < s.used) :
    peekByte s = some (s.ring.read s.tailIdx) := if_pos ⟨by rw [ne_eq, ← length_toNat_eq_zero]; omega, hu⟩

theorem peekByte_not_buffered (hu : s.used = 0) : peekByte s = none := if_neg fun h => absurd h.2 (by omega)

/-! ## The operations in the state that Prepare leaves -/

variable (ha : s.alive) (hp : prepare s = (true, t))
include ha hp

theorem exec_peek_prepared (c : Cid) : exec (.peek (BitVec.ofNat 8 c.val)) s =
    .next (t.forCid c fun v => v.answerByte [] (peekByte v)) :=
  (exec_of_operand ha rfl (cidOperand_cid c)).trans (congrArg _ (State.prepared_alive hp _))

theorem exec_read_prepared (c : Cid) : exec (.read (BitVec.ofNat 8 c.val)) s =
    .next (t.forCid c fun v => (popByte v).2.answerByte [] (popByte v).1) :=
  (exec_of_operand ha rfl (cidOperand_cid c)).trans (congrArg _ (State.prepared_alive hp _))

theorem exec_readBuf_prepared (c : Cid) (n : Half) : exec (.readBuf (BitVec.ofNat 8 c.val) n) s =
    .next (t.forCid c fun v => (popBytes (min n.toNat (availableBytes v)) v).2.hostOk
      (countBytes (min n.toNat (availableBytes v)) ++ (popBytes (min n.toNat (availableBytes v)) v).1)) :=
  (exec_of_operand ha rfl (cidOperand_cid c)).trans (congrArg _ (State.prepared_alive hp _))

theorem exec_readAny_prepared : exec .readAny s = .next (if t.tail.length = 0 then t.hostCode .empty
    else (popByte t).2.answerByte [cidByte t.tail.cid] (popByte t).1) :=
  (exec_of_alive ha rfl).trans (congrArg _ (State.prepared_alive hp _))

theorem exec_firstCid_prepared : exec .firstCid s = .next (if t.tail.length = 0 ∨ availableBytes t = 0
    then t.hostCode .empty else t.hostOk [cidByte t.tail.cid]) :=
  (exec_of_alive ha rfl).trans (congrArg _ (State.prepared_alive hp _))

theorem exec_available_prepared (c : Cid) : exec (.available (BitVec.ofNat 8 c.val)) s =
    .next (if t.tail.length = 0 ∨ t.tail.cid ≠ c then t.hostOk (countBytes 0)
      else t.hostOk (countBytes (availableBytes t))) :=
  (exec_of_operand ha rfl (cidOperand_cid c)).trans (congrArg _ (State.prepared_alive hp _))

theorem exec_availableAny_prepared : exec .availableAny s = .next (t.hostOk (countBytes (availableBytes t))) :=
  (exec_of_alive ha rfl).trans (congrArg _ (State.prepared_alive hp _))

end

/-! ## A live tail frame with bytes buffered -/

/-- The state with the byte at the reading cursor taken (42 R249). -/
def State.taken (s : State) : State :=
  { s with tailIdx := (s.tailIdx + 1) % s.cfg.ringCap, tail := { s.tail with length := s.tail.length - 1 } }

theorem popByte_taken {s : State} (hl : 0 < s.tail.length.toNat) (hu : 0 < s.used) :
    popByte s = (some (s.ring.read s.tailIdx), s.taken) := popByte_some s (by omega)

theorem countBytes_available (s : State) : countBytes (availableBytes s) =
    [BitVec.ofNat 8 (min s.tail.length.toNat s.used), BitVec.ofNat 8 (min s.tail.length.toNat s.used / 256)] := by
  have hlt := s.tail.length.isLt
  rw [availableBytes_eq, countBytes_of_lt _ (by omega)]

section
variable {s t : State} (ha : s.alive) (hp : prepare s = (true, t))
  (hl : 0 < t.tail.length.toNat) (hu : 0 < t.used)
include ha hp hl

theorem reads_other_cid {c : Cid} (hc : t.tail.cid ≠ c) (n : Half) :
    ∀ i ∈ [Instr.peek (BitVec.ofNat 8 c.val), .read (BitVec.ofNat 8 c.val), .readBuf (BitVec.ofNat 8 c.val) n],
      exec i s = .next { t with result := some (.record [0x05]) } := by
  refine List.forall_mem_cons.2 ⟨?_, List.forall_mem_cons.2 ⟨?_, List.forall_mem_singleton.2 ?_⟩⟩
  · rw [exec_peek_prepared ha hp, State.forCid_other hl hc]
  · rw [exec_read_prepared ha hp, State.forCid_other hl hc]
  · rw [exec_readBuf_prepared ha hp, State.forCid_other hl hc]

theorem exec_available_live (c : Cid) : exec (.available (BitVec.ofNat 8 c.val)) s = .next { t with
    result := some (.record (0x00 :: if t.tail.cid = c then
      [BitVec.ofNat 8 (min t.tail.length.toNat t.used), BitVec.ofNat 8 (min t.tail.length.toNat t.used / 256)]
      else [0, 0])) } := by
  have hlive : t.tail.length ≠ 0 := by rw [ne_eq, ← length_toNat_eq_zero]; omega
  rw [exec_available_prepared ha hp, countBytes_available, countBytes_of_lt 0 (by decide)]
  by_cases hc : t.tail.cid = c
  · rw [if_neg (not_or.2 ⟨hlive, not_not.2 hc⟩), if_pos hc]
    rfl
  · rw [if_pos (.inr hc), if_neg hc]
    rfl

omit hl in
theorem exec_availableAny_count : exec .availableAny s = .next { t with
    result := some (.record (0x00 ::
      [BitVec.ofNat 8 (min t.tail.length.toNat t.used), BitVec.ofNat 8 (min t.tail.length.toNat t.used / 256)])) } := by
  rw [exec_availableAny_prepared ha hp, countBytes_available]
  rfl

include hu

theorem exec_peek_live {c : Cid} (hc : t.tail.cid = c) : exec (.peek (BitVec.ofNat 8 c.val)) s =
    .next { t with result := some (.record [0x00, t.ring.read t.tailIdx]) } := by
  rw [exec_peek_prepared ha hp, State.forCid_same hl hc, peekByte_buffered hl hu]
  rfl

theorem exec_read_live {c : Cid} (hc : t.tail.cid = c) : exec (.read (BitVec.ofNat 8 c.val)) s =
    .next { t.taken with result := some (.record [0x00, t.ring.read t.tailIdx]) } := by
  rw [exec_read_prepared ha hp, State.forCid_same hl hc, popByte_taken hl hu]
  rfl

theorem exec_readAny_live : exec .readAny s =
    .next { t.taken with result := some (.record [0x00, cidByte t.tail.cid, t.ring.read t.tailIdx]) } := by
  rw [exec_readAny_prepared ha hp, if_neg (by rw [← length_toNat_eq_zero]; omega), popByte_taken hl hu]
  rfl

theorem exec_firstCid_live : exec .firstCid s =
    .next { t with result := some (.record [0x00, cidByte t.tail.cid]) } := by
  rw [exec_firstCid_prepared ha hp, availableBytes_eq, if_neg (by rw [← length_toNat_eq_zero]; omega)]
  rfl

end

/-- Settles O52: with a byte buffered Prepare leaves the state as it is. -/
theorem bufferedReads : Obligations.BufferedReads := by
  refine ⟨fun c s ha hl hu => ?bytes, fun c s ha hl hu => ?counts⟩
  case bytes =>
    have hp := prepare_buffered hl hu
    intro byte taken
    refine ⟨fun hc => ⟨exec_peek_live ha hp hl hu hc, exec_read_live ha hp hl hu hc, ?_⟩,
      fun hc n => reads_other_cid ha hp hl hc n⟩
    rw [← hc]
    exact exec_readAny_live ha hp hl hu
  case counts =>
    have hp := prepare_buffered hl hu
    exact ⟨exec_firstCid_live ha hp hl hu, exec_available_live ha hp hl c, exec_availableAny_count ha hp⟩

/-! ## POP_BYTE repeated (46 R433) -/

theorem popBytes_available (k : Nat) : ∀ s : State, s.headIdx < s.cfg.ringCap → s.tailIdx < s.cfg.ringCap →
    k ≤ min s.tail.length.toNat s.used →
    popBytes k s = ((List.range k).map fun j => s.ring.read ((s.tailIdx + j) % s.cfg.ringCap),
      { s with
        tailIdx := (s.tailIdx + k) % s.cfg.ringCap
        tail := { s.tail with length := BitVec.ofNat 16 (s.tail.length.toNat - k) } }) := by
  induction k with
  | zero =>
    intro s _ htail _
    simp only [popBytes, List.range_zero, List.map_nil, Nat.add_zero, Nat.mod_eq_of_lt htail, Nat.sub_zero,
      BitVec.ofNat_toNat, BitVec.setWidth_eq]
  | succ k ih =>
    intro s hhead htail hk
    have hlen : s.taken.tail.length.toNat = s.tail.length.toNat - 1 := by
      have := s.tail.length.isLt
      simp only [State.taken]
      bv_omega
    have hone : 1 ≤ s.used := by omega
    have hused : s.taken.used = s.used - 1 := cursor_distance_add hhead htail hone
    have hlt : (s.tailIdx + 1) % s.cfg.ringCap < s.cfg.ringCap := Nat.mod_lt _ (by omega)
    have hmod (j : Nat) :
        ((s.tailIdx + 1) % s.cfg.ringCap + j) % s.cfg.ringCap = (s.tailIdx + (j + 1)) % s.cfg.ringCap := by
      rw [Nat.mod_add_mod, Nat.add_assoc, Nat.add_comm 1]
    rw [popBytes, popByte_taken (by omega) (by omega)]
    simp only
    rw [ih s.taken hhead hlt (by rw [hlen, hused]; omega), hlen, Nat.sub_sub, Nat.add_comm 1 k]
    simp only [State.taken, hmod, List.range_succ_eq_map, List.map_cons, List.map_map, Nat.add_zero,
      Nat.mod_eq_of_lt htail, Option.toList_some, List.singleton_append]
    rfl

/-- Settles O53. -/
theorem readBufCopiesTheTailFrame : Obligations.ReadBufCopiesTheTailFrame := by
  intro n s ha hr hl hu k
  obtain ⟨hhead, htail, -⟩ := State.registersOk_iff.1 hr
  have hlt := s.tail.length.isLt
  have hk : min n.toNat (availableBytes s) = k := by rw [availableBytes_eq]
  rw [exec_readBuf_prepared ha (prepare_buffered hl hu), State.forCid_same hl rfl, hk,
    popBytes_available k s hhead htail (by omega), countBytes_of_lt k (by omega)]
  rfl

/-! ## Reads with nothing buffered -/

theorem State.used_of_empty {s : State} (h : s.headIdx = s.tailIdx) : s.used = 0 := by
  rw [State.used, h, Nat.add_sub_cancel_left, Nat.mod_self]

/-- A poll that finds no byte on the link, in a state where ADVANCE has nothing to do. -/
theorem prepare_noByte {s : State} (ha : s.alive) (hm : s.linkMode = .stream) (hu : s.used = 0)
    {rest : List (Option Byte)} (h : s.env.linkReads = none :: rest) : prepare s = (true, s.afterRead none rest) := by
  have hz : availableBytes s = 0 := by rw [availableBytes_eq, hu, Nat.min_zero]
  have hpoll := pollOnce_noByte (codecRecv_stream_script ha.2 hm h) ha.2
  rw [prepare_of_poll (State.advanced_of_used hu) hz hpoll (by decide)]
  exact congrArg _ (advance_eq_self (State.advanced_of_used hu))

section
variable {s t : State} (ha : s.alive) (hp : prepare s = (true, t))
include ha hp

theorem reads_of_empty (hz : t.tail.length.toNat = 0) (c : Cid) (n : Half) :
    (∀ i ∈ [Instr.peek (BitVec.ofNat 8 c.val), .read (BitVec.ofNat 8 c.val), .readBuf (BitVec.ofNat 8 c.val) n,
        .readAny, .firstCid], exec i s = .next { t with result := some (.record [0x06]) })
      ∧ ∀ i ∈ [Instr.available (BitVec.ofNat 8 c.val), .availableAny],
        exec i s = .next { t with result := some (.record [0x00, 0x00, 0x00]) } := by
  have hnone : t.tail.length = 0 := (length_toNat_eq_zero _).1 hz
  have hcount : countBytes 0 = [0x00, 0x00] := countBytes_of_lt 0 (by decide)
  simp only [List.forall_mem_cons, List.not_mem_nil, false_imp_iff, implies_true, and_true]
  refine ⟨⟨?peek, ?read, ?readBuf, ?readAny, ?firstCid⟩, ?available, ?availableAny⟩
  case peek => rw [exec_peek_prepared ha hp, State.forCid_empty hz]
  case read => rw [exec_read_prepared ha hp, State.forCid_empty hz]
  case readBuf => rw [exec_readBuf_prepared ha hp, State.forCid_empty hz]
  case readAny => rw [exec_readAny_prepared ha hp, if_pos hnone]; rfl
  case firstCid => rw [exec_firstCid_prepared ha hp, if_pos (.inl hnone)]; rfl
  case available => rw [exec_available_prepared ha hp, if_pos (.inl hnone), hcount]; rfl
  case availableAny => rw [exec_availableAny_prepared ha hp, availableBytes_eq, hz, Nat.zero_min, hcount]; rfl

theorem reads_of_waiting_tail (hl : 0 < t.tail.length.toNat) (hu : t.used = 0) (c : Cid) (n : Half) :
    (∀ i ∈ [Instr.peek (BitVec.ofNat 8 c.val), .read (BitVec.ofNat 8 c.val)],
        exec i s = .next { t with result := some (.record [if t.tail.cid = c then 0x06 else 0x05]) })
      ∧ exec (.readBuf (BitVec.ofNat 8 c.val) n) s = .next { t with
          result := some (.record (if t.tail.cid = c then [0x00, 0x00, 0x00] else [0x05])) }
      ∧ (∀ i ∈ [Instr.readAny, .firstCid], exec i s = .next { t with result := some (.record [0x06]) })
      ∧ ∀ i ∈ [Instr.available (BitVec.ofNat 8 c.val), .availableAny],
        exec i s = .next { t with result := some (.record [0x00, 0x00, 0x00]) } := by
  have hlive : t.tail.length ≠ 0 := by rw [ne_eq, ← length_toNat_eq_zero]; omega
  have hz : availableBytes t = 0 := by rw [availableBytes_eq, hu, Nat.min_zero]
  have hpop := popByte_none t (.inr hu)
  have hcount : countBytes 0 = [0x00, 0x00] := countBytes_of_lt 0 (by decide)
  simp only [List.forall_mem_cons, List.not_mem_nil, false_imp_iff, implies_true, and_true]
  refine ⟨⟨?peek, ?read⟩, ?readBuf, ⟨?readAny, ?firstCid⟩, ?available, ?availableAny⟩
  case peek =>
    rw [exec_peek_prepared ha hp]
    split
    · next hc => rw [State.forCid_same hl hc, peekByte_not_buffered hu]; rfl
    · next hc => rw [State.forCid_other hl hc]
  case read =>
    rw [exec_read_prepared ha hp]
    split
    · next hc => rw [State.forCid_same hl hc, hpop]; rfl
    · next hc => rw [State.forCid_other hl hc]
  case readBuf =>
    rw [exec_readBuf_prepared ha hp]
    split
    · next hc => rw [State.forCid_same hl hc, hz, Nat.min_zero, popBytes, hcount]; rfl
    · next hc => rw [State.forCid_other hl hc]
  case readAny => rw [exec_readAny_prepared ha hp, if_neg hlive, hpop]; rfl
  case firstCid => rw [exec_firstCid_prepared ha hp, if_pos (.inr hz)]; rfl
  case available => rw [exec_available_prepared ha hp, hz, hcount, ite_self]; rfl
  case availableAny => rw [exec_availableAny_prepared ha hp, hz, hcount]; rfl

end

/-! ## A payload byte that the poll brings -/

theorem dropOldest_of_room {n : Nat} {s : State} (h : n ≤ s.free) : dropOldest n s = s := by
  rw [dropOldest]
  cases s.cfg.ringCap with
  | zero => rfl
  | succ k => exact if_neg fun hgo => absurd hgo.1 (by omega)

theorem pushByte_of_room (b : Byte) {s : State} (h : 1 ≤ s.free) : pushByte b s =
    { s with ring := s.ring.write s.headIdx b, headIdx := (s.headIdx + 1) % s.cfg.ringCap } := by
  rw [pushByte, dropOldest_of_room h]

theorem rxBulk_of_room (b : Byte) {s : State} (h : 1 ≤ s.free) : rxBulk b s = { s with
    ring := s.ring.write s.headIdx b
    headIdx := (s.headIdx + 1) % s.cfg.ringCap
    head := { s.head with length := s.head.length - 1 }
    rxState := if s.head.length - 1 = 0 then .idle else s.rxState } := by
  rw [rxBulk, pushByte_of_room b h]

/-- The writing cursor moved by `k` cells that are free: `k` more are occupied (20 R71). -/
theorem cursor_distance_push {head tail c k : Nat} (hhead : head < c) (htail : tail < c)
    (hk : (head + c - tail) % c + k < c) : ((head + k) % c + c - tail) % c = (head + c - tail) % c + k := by
  have hd := mod_eq_of_lt_two_mul (a := head + c - tail) (c := c) (by omega)
  have hm := mod_eq_of_lt_two_mul (a := head + k) (c := c) (by omega)
  have hlt : (head + k) % c < c := Nat.mod_lt _ (by omega)
  have he := mod_eq_of_lt_two_mul (a := (head + k) % c + c - tail) (c := c) (by omega)
  split at hd <;> split at hm <;> split at he <;> omega

/-- The next payload byte of the frame in flight, when it is the tail frame and none of its bytes is buffered. -/
theorem rxProcess_payloadByte (b : Byte) {s : State} (h : s.Inv) (hb : s.rxState = .bulk) (he : s.headIdx = s.tailIdx) :
    let v := (rxProcess b s).2
    v.tail = s.tail ∧ v.tailIdx = s.tailIdx ∧ v.cfg = s.cfg ∧ v.used = 1 ∧ v.ring.read v.tailIdx = b := by
  have hcap := h.cap
  have hused := State.used_of_empty he
  have hroom : 1 ≤ s.free := by rw [State.free, hused]; omega
  have hpush := cursor_distance_push (k := 1) h.head_lt h.tail_lt (by rw [← State.used, hused]; omega)
  rw [← State.used, hused] at hpush
  rw [rxProcess_bulk b hb, rxBulk_of_room b hroom]
  exact ⟨rfl, rfl, rfl, hpush, he ▸ Memory.read_write_same _ _ _ h.ring_form⟩

theorem prepare_byte {s u v : State} {b : Byte} (hl : 0 < s.tail.length.toNat) (hu : s.used = 0)
    (hr : codecRecv s = (some b, u)) (halive : u.unrecoverable = false) (hv : (rxProcess b u).2 = v)
    (hlive : 0 < v.tail.length.toNat) : prepare s = (true, v) := by
  have hz : availableBytes s = 0 := by rw [availableBytes_eq, hu, Nat.min_zero]
  rw [prepare_of_poll (State.advanced_of_live hl) hz (pollOnce_byte hr halive) (by decide), hv,
    advance_eq_self (State.advanced_of_live hlive)]

section
variable {s t : State} (ha : s.alive) (hp : prepare s = (true, t)) (hl : 0 < t.tail.length.toNat) (hu : t.used = 1)
include ha hp hl hu

theorem exec_readBuf_one (n : Half) : exec (.readBuf (BitVec.ofNat 8 t.tail.cid.val) n) s =
    .next (if n = 0 then { t with result := some (.record [0x00, 0x00, 0x00]) }
      else { t.taken with result := some (.record [0x00, 0x01, 0x00, t.ring.read t.tailIdx]) }) := by
  rw [exec_readBuf_prepared ha hp, State.forCid_same hl rfl, availableBytes_eq, hu, Nat.min_eq_right hl]
  split
  · next hn =>
    have hk : min n.toNat 1 = 0 := by simp [hn]
    rw [hk, popBytes, countBytes_of_lt 0 (by decide)]
    rfl
  · next hn =>
    have hk : min n.toNat 1 = 1 := by
      rw [← length_toNat_eq_zero] at hn
      omega
    rw [hk, popBytes, popByte_taken hl (by omega), countBytes_of_lt 1 (by decide)]
    rfl

theorem exec_availableAny_one : exec .availableAny s = .next { t with
    result := some (.record [0x00, 0x01, 0x00]) } := by
  rw [exec_availableAny_count ha hp, hu, Nat.min_eq_right hl]
  rfl

theorem exec_available_one (c : Cid) : exec (.available (BitVec.ofNat 8 c.val)) s = .next { t with
    result := some (.record [0x00, if t.tail.cid = c then 0x01 else 0x00, 0x00]) } := by
  rw [exec_available_live ha hp hl, hu, Nat.min_eq_right hl]
  split <;> rfl

end

/-- Every read operation once the poll has brought a byte of the tail frame. -/
theorem reads_of_byte {s t v : State} {r : Response} {b : Byte} (ha : s.alive) (hp : prepare s = (true, v))
    (hl : 0 < v.tail.length.toNat) (hu : v.used = 1) (hread : v.ring.read v.tailIdx = b) (ht : t = v.respond r)
    (c : Cid) (n : Half) :
    let taken := { t with
      tailIdx := (v.tailIdx + 1) % v.cfg.ringCap, tail := { v.tail with length := v.tail.length - 1 } }
    let cid := BitVec.ofNat 8 v.tail.cid.val
    exec (.peek cid) s = .next { t with result := some (.record [0x00, b]) }
    ∧ exec (.read cid) s = .next { taken with result := some (.record [0x00, b]) }
    ∧ exec .readAny s = .next { taken with result := some (.record [0x00, cid, b]) }
    ∧ exec (.readBuf cid n) s = .next (if n = 0 then { t with result := some (.record [0x00, 0x00, 0x00]) }
        else { taken with result := some (.record [0x00, 0x01, 0x00, b]) })
    ∧ exec .firstCid s = .next { t with result := some (.record [0x00, cid]) }
    ∧ exec .availableAny s = .next { t with result := some (.record [0x00, 0x01, 0x00]) }
    ∧ exec (.available (BitVec.ofNat 8 c.val)) s = .next { t with
        result := some (.record [0x00, if v.tail.cid = c then 0x01 else 0x00, 0x00]) }
    ∧ (v.tail.cid ≠ c → ∀ i ∈ [Instr.peek (BitVec.ofNat 8 c.val), .read (BitVec.ofNat 8 c.val),
        .readBuf (BitVec.ofNat 8 c.val) n], exec i s = .next { t with result := some (.record [0x05]) }) := by
  subst hread ht
  have hpos : 0 < v.used := by omega
  exact ⟨exec_peek_live ha hp hl hpos rfl, exec_read_live ha hp hl hpos rfl, exec_readAny_live (t := v) ha hp hl hpos,
    exec_readBuf_one ha hp hl hu n, exec_firstCid_live (t := v) ha hp hl hpos,
    exec_availableAny_one (t := v) ha hp hl hu, exec_available_one ha hp hl hu c, fun hc => reads_other_cid ha hp hl hc n⟩

/-- Settles O54: with nothing buffered Prepare is one poll; what the operations then do depends on the tail frame and on
the byte that the poll brought. -/
theorem readsPollOnceWhenEmpty : Obligations.ReadsPollOnceWhenEmpty := by
  refine ⟨fun c n rest s ha hm _ hempty hr => ?empty, fun c n rest s ha hm _ hl he hr => ?waiting,
    fun c n b rest s h ha hm hb hl he hr => ?byte⟩
  case empty =>
    have hz := (length_toNat_eq_zero _).2 hempty.2
    exact reads_of_empty ha (prepare_noByte ha hm (State.used_of_empty hempty.1) hr) hz c n
  case waiting =>
    have hu := State.used_of_empty he
    exact reads_of_waiting_tail ha (prepare_noByte ha hm hu hr) hl hu c n
  case byte =>
    obtain ⟨htail, hidx, hcfg, hused, hread⟩ :=
      rxProcess_payloadByte b (h.afterRead (some b) rest) hb (show (s.afterRead _ _).headIdx = _ from he)
    have hlive : 0 < (rxProcess b (s.afterRead (some b) rest)).2.tail.length.toNat := by rw [htail]; exact hl
    have hp := prepare_byte hl (State.used_of_empty he) (codecRecv_stream_script ha.2 hm hr) ha.2 rfl hlive
    have hreads := reads_of_byte ha hp hlive hused hread (after_rxProcess b _) c n
    rw [htail, hidx, hcfg] at hreads
    exact hreads

end Sys2Proof.Machine
end

section
/-! PROOFS. The codec on the bus (40_bus_codec.md): what CODEC_SEND sends (R151 to R154; O19), what CODEC_RECV makes of
each value (R155 to R158; O20), and the storm of ALL-ONES markers in each operation that can meet it (R156; O22). -/

namespace Sys2Proof.Machine

/-! ## The reserved values differ (30 R100) -/

section
variable {cfg : Config} (h : cfg.valid = true)
include h

theorem Config.xoff_ne_allOnes : cfg.busXoff ≠ busAllOnes := by
  have hn := Config.reserved_nodup cfg h
  simp only [Config.reserved, List.nodup_cons, List.mem_cons, not_or] at hn
  exact hn.2.2.2.1.2.2.1

theorem Config.xon_ne_allOnes : cfg.busXon ≠ busAllOnes := by
  have hn := Config.reserved_nodup cfg h
  simp only [Config.reserved, List.nodup_cons, List.mem_cons, not_or] at hn
  exact hn.2.2.2.2.2.1.1

theorem Config.xon_ne_xoff : cfg.busXon ≠ cfg.busXoff := by
  have hn := Config.reserved_nodup cfg h
  simp only [Config.reserved, List.nodup_cons, List.mem_cons, not_or] at hn
  exact Ne.symm hn.2.2.2.1.2.1

end

/-! ## One exchange of CODEC_SEND (40 R150, R151, R154) -/

/-- The state once BusExchange has answered from the script (00 R10). -/
def State.afterExchange (s : State) (t r : Byte) (rest : List Byte) : State :=
  { s with env := { s.env with exchanges := rest }, trace := .exchange t r :: s.trace }

theorem exchangeOut_script (t r : Byte) (s : State) (rest : List Byte) (h : s.env.exchanges = r :: rest) :
    exchangeOut t s = txRx r (s.afterExchange t r rest) := by
  rw [exchangeOut, busExchange_script t r s rest h, State.afterExchange]

/-- What a value received while sending can change: the codec flags, the dead state and the log. -/
def flagsOnly (s t : State) : Prop :=
  ∃ (run : Nat) (dead : Bool) (cause : FatalCause) (paused : Bool) (log : List LogEvent), t = { s with
    allOnesRun := run, unrecoverable := dead, fatalCause := cause, paused := paused, log := log }

theorem flagsOnly_countAllOnes (s : State) : flagsOnly s s.countAllOnes := by
  unfold State.countAllOnes State.setFatal
  simp only
  split
  · split <;> exact ⟨_, _, _, _, _, rfl⟩
  · exact ⟨_, _, _, _, _, rfl⟩

theorem flagsOnly_txRx (r : Byte) (s : State) : flagsOnly s (txRx r s) := by
  unfold txRx State.clearAllOnes State.emit
  split
  · exact flagsOnly_countAllOnes s
  · simp only
    split
    · exact ⟨_, _, _, _, _, rfl⟩
    · split
      · exact ⟨_, _, _, _, _, rfl⟩
      · split <;> exact ⟨_, _, _, _, _, rfl⟩

theorem txRx_trace (r : Byte) (s : State) : (txRx r s).trace = s.trace := by
  obtain ⟨_, _, _, _, _, h⟩ := flagsOnly_txRx r s
  rw [h]

theorem txRx_env (r : Byte) (s : State) : (txRx r s).env = s.env := by
  obtain ⟨_, _, _, _, _, h⟩ := flagsOnly_txRx r s
  rw [h]

theorem txRx_cfg (r : Byte) (s : State) : (txRx r s).cfg = s.cfg := by
  obtain ⟨_, _, _, _, _, h⟩ := flagsOnly_txRx r s
  rw [h]

theorem countAllOnes_paused (s : State) : s.countAllOnes.paused = s.paused := by
  unfold State.countAllOnes State.setFatal
  simp only
  split
  · split <;> rfl
  · rfl

theorem txRx_xoff (s : State) (hv : s.cfg.valid = true) : (txRx s.cfg.busXoff s).paused = true := by
  unfold txRx
  rw [if_neg (Config.xoff_ne_allOnes hv)]
  exact congrArg State.paused (if_pos rfl)

theorem txRx_xon (s : State) (hv : s.cfg.valid = true) :
    txRx s.cfg.busXon s = { s with paused := false, allOnesRun := 0 } := by
  unfold txRx
  rw [if_neg (Config.xon_ne_allOnes hv)]
  exact (if_neg (Config.xon_ne_xoff hv)).trans (if_pos rfl)

/-- Only XON ends a pause (40 R150, R153). -/
theorem txRx_stays_paused (r : Byte) (s : State) (hp : s.paused = true) (hr : r ≠ s.cfg.busXon) :
    (txRx r s).paused = true := by
  unfold txRx
  split
  · exact (countAllOnes_paused s).trans hp
  · simp only
    split
    · rfl
    · rw [if_neg (show ¬ r = s.clearAllOnes.cfg.busXon from hr)]
      split <;> exact hp

/-! ## CODEC_SEND (40 R151 to R154) -/

theorem exec_codecSend (b : Byte) (s : State) :
    exec (.codecSend b) s = .next (s.beginActivity (.send [b] .codec)).resume := rfl

theorem passSend_idle (bytes : List Byte) (k : SendThen) (s : State) (rest : List Byte) (hv : s.cfg.valid = true)
    (hm : s.linkMode = .bus) (hu : s.unrecoverable = false) (hp : s.paused = false) (hne : bytes ≠ [])
    (h : s.env.exchanges = List.replicate (bytes.flatMap (escBytes s.cfg)).length s.cfg.busIdle ++ rest) :
    passSend bytes k s = sendDone k { s with
      env := { s.env with exchanges := rest }
      trace := ((bytes.flatMap (escBytes s.cfg)).map fun t => LinkEvent.exchange t s.cfg.busIdle).reverse ++ s.trace
      allOnesRun := 0 } := by
  rw [passSend, if_neg (by simp [hu]), if_neg (by simp [hp]), sendBytes_idle bytes s rest hv hm hu hp hne h]
  dsimp only
  rw [if_neg (by simp [hu]), if_pos rfl]

/-- One byte is sent whole before CODEC_SEND ends, whatever is received in between. -/
theorem passSend_codec (b : Byte) (s : State) (hu : s.unrecoverable = false) (hp : s.paused = false) :
    passSend [b] .codec s = (sendByte b s).finish
      (.code (if (sendByte b s).unrecoverable = true then .errUnrecoverable else .ok)) := by
  rw [passSend, if_neg (by simp [hu]), if_neg (by simp [hp]), sendBytes, if_neg (by simp [hu]), if_neg (by simp [hp]),
    sendBytes]
  dsimp only
  split
  · rfl
  · rw [if_pos rfl]
    rfl

theorem sendByte_bus (b : Byte) (s : State) (hm : s.linkMode = .bus) :
    sendByte b s = exchangeAll (escBytes s.cfg b) s := by
  unfold sendByte
  rw [hm]

theorem escBytes_reserved {cfg : Config} {b : Byte} (hb : b ∈ cfg.reserved) :
    escBytes cfg b = [cfg.busEsc, b ^^^ cfg.busMask] := if_pos hb

theorem escBytes_not_reserved {cfg : Config} {b : Byte} (hb : b ∉ cfg.reserved) : escBytes cfg b = [b] := if_neg hb

section
variable {b r₁ r₂ : Byte} {s : State} {rest : List Byte} (hm : s.linkMode = .bus) (hb : b ∈ s.cfg.reserved)
  (h : s.env.exchanges = r₁ :: r₂ :: rest)
include hm hb h

/-- The pair of a reserved value, whatever the two answers are (40 R154). -/
theorem sendByte_pair : sendByte b s = txRx r₂
    ((txRx r₁ (s.afterExchange s.cfg.busEsc r₁ (r₂ :: rest))).afterExchange (b ^^^ s.cfg.busMask) r₂ rest) := by
  rw [sendByte_bus b s hm, escBytes_reserved hb, exchangeAll, exchangeAll, exchangeAll, exchangeOut_script _ _ s _ h,
    exchangeOut_script _ r₂ _ rest (by rw [txRx_env]; rfl)]

theorem sendByte_pair_trace :
    (sendByte b s).trace = .exchange (b ^^^ s.cfg.busMask) r₂ :: .exchange s.cfg.busEsc r₁ :: s.trace := by
  rw [sendByte_pair hm hb h, txRx_trace]
  exact congrArg (_ :: ·) (txRx_trace r₁ _)

/-- An XOFF received with BUS_ESC holds what follows, unless XON comes with the other value (40 R154). -/
theorem sendByte_pair_paused (hv : s.cfg.valid = true) (hoff : r₁ = s.cfg.busXoff) (hon : r₂ ≠ s.cfg.busXon) :
    (sendByte b s).paused = true := by
  subst hoff
  rw [sendByte_pair hm hb h]
  refine txRx_stays_paused r₂ _ (txRx_xoff (s.afterExchange s.cfg.busEsc s.cfg.busXoff (r₂ :: rest)) hv) ?_
  exact fun heq => hon (heq.trans (congrArg Config.busXon (txRx_cfg _ _)))

end

/-- The pause wait (40 R153): `k` answers of BUS_IDLE and then XON take as many passes, and the send goes on. -/
theorem runActivity_paused (tx : List Byte) (next : SendThen) (hne : tx ≠ []) (n k : Nat) :
    ∀ (s : State) (rest : List Byte), s.cfg.valid = true → s.linkMode = .bus → s.unrecoverable = false →
      s.paused = true → s.activity = some (.send tx next) →
      s.env.exchanges = List.replicate k s.cfg.busIdle ++ s.cfg.busXon :: rest →
      runActivity (n + 1 + k) s = runActivity n { s with
        env := { s.env with exchanges := rest }
        trace := .exchange s.cfg.busIdle s.cfg.busXon ::
          (List.replicate k (.exchange s.cfg.busIdle s.cfg.busIdle) ++ s.trace)
        paused := false
        allOnesRun := 0 } := by
  have hpass (s : State) (hm : s.linkMode = .bus) (hu : s.unrecoverable = false) (hp : s.paused = true)
      (halive : (exchangeOut s.cfg.busIdle s).unrecoverable = false) :
      pass (.send tx next) s = exchangeOut s.cfg.busIdle s := by
    rw [pass, passSend, if_neg (by simp [hu]), if_pos ⟨hm, hp, hne⟩]
    exact if_neg (by simp [halive])
  induction k with
  | zero =>
    intro s rest hv hm hu hp ha h
    have hx : exchangeOut s.cfg.busIdle s = _ :=
      (exchangeOut_script _ _ s rest h).trans (txRx_xon (s.afterExchange s.cfg.busIdle s.cfg.busXon rest) hv)
    rw [Nat.add_zero, runActivity_succ _ s _ ha, hpass s hm hu hp (by rw [hx]; exact hu), hx]
    rfl
  | succ k ih =>
    intro s rest hv hm hu hp ha h
    have hx := exchangeOut_idle s.cfg.busIdle s (List.replicate k s.cfg.busIdle ++ s.cfg.busXon :: rest) hv
      (by rw [h, List.replicate_succ, List.cons_append])
    rw [← Nat.add_assoc, runActivity_succ _ s _ ha, hpass s hm hu hp (by rw [hx]; exact hu), hx]
    refine (ih { s.afterExchange s.cfg.busIdle s.cfg.busIdle _ with allOnesRun := 0 } rest hv hm hu hp ha rfl).trans ?_
    simp only [State.afterExchange]
    simp only [List.replicate_succ', List.append_assoc, List.singleton_append]

theorem runActivity_pass_ends (n : Nat) (s : State) (a : Activity) (h : s.activity = some a)
    (hend : (pass a s).activity = none) : runActivity (n + 1) s = pass a s :=
  (runActivity_succ n s a h).trans (runActivity_of_idle n _ hend)

theorem State.exchanges_lt_budget (s : State) : s.env.exchanges.length < s.budget := by
  rw [State.budget, Env.answersLeft]
  omega

/-- Settles O19: unpaused, CODEC_SEND is one pass of uninterrupted exchanges; paused, it is the pause wait before it. -/
theorem busSendOnTheWire : Obligations.BusSendOnTheWire := by
  refine ⟨fun b s rest hv hm hu hp => ?wire, fun b r₁ r₂ s rest hv hm hu hp hb hx => ?pair,
    fun b k s rest hv hm hu hp hb hx => ?paused⟩
  case wire =>
    intro wire hx
    have hwire : [b].flatMap (escBytes s.cfg) = wire := List.append_nil _
    have hpass := passSend_idle [b] .codec (s.beginActivity (.send [b] .codec)) rest hv hm hu hp (by simp)
      (by rw [← hwire] at hx; exact hx)
    have hrun := State.resume_of_pass_ends _ (.send [b] .codec) rfl (congrArg State.activity hpass)
    rw [← hwire]
    exact congrArg Host.Outcome.next (hrun.trans hpass)
  case pair =>
    have hpass := passSend_codec b (s.beginActivity (.send [b] .codec)) hu hp
    have hrun := State.resume_of_pass_ends _ (.send [b] .codec) rfl (congrArg State.activity hpass)
    exact ⟨_, (exec_codecSend b s).trans (congrArg Host.Outcome.next (hrun.trans hpass)),
      sendByte_pair_trace (s := s.beginActivity _) hm hb hx, sendByte_pair_paused (s := s.beginActivity _) hm hb hx hv⟩
  case paused =>
    have hlen := (s.beginActivity (.send [b] .codec)).exchanges_lt_budget
    simp only [State.beginActivity_env, hx, List.length_append, List.length_replicate, List.length_cons] at hlen
    obtain ⟨n, hn⟩ : ∃ n, (s.beginActivity (.send [b] .codec)).budget = n + 1 + 1 + k :=
      ⟨(s.beginActivity (.send [b] .codec)).budget - (k + 2), by omega⟩
    have hwait := runActivity_paused [b] .codec (by simp) (n + 1) k (s.beginActivity (.send [b] .codec)) _ hv hm hu hp
      rfl hx
    have hwire : [b].flatMap (escBytes s.cfg) = [b] := by
      rw [List.flatMap_cons, escBytes_not_reserved hb]
      rfl
    rw [exec_codecSend, State.resume, hn, hwait]
    refine congrArg Host.Outcome.next ?_
    have hpass := passSend_idle [b] .codec { s.beginActivity (.send [b] .codec) with
      env := { s.env with exchanges := s.cfg.busIdle :: rest }
      trace := .exchange s.cfg.busIdle s.cfg.busXon ::
        (List.replicate k (.exchange s.cfg.busIdle s.cfg.busIdle) ++ s.trace)
      paused := false
      allOnesRun := 0 } rest hv hm hu rfl (by simp) (by simp only [State.beginActivity_cfg, hwire]; rfl)
    simp only [State.beginActivity_cfg, hwire] at hpass
    exact (runActivity_pass_ends n _ (.send [b] .codec) rfl (congrArg State.activity hpass)).trans hpass

/-! ## CODEC_RECV by the value received (40 R155 to R158) -/

theorem countAllOnes_alive (s : State) (hu : s.unrecoverable = false) : s.countAllOnes = { s with
    allOnesRun := min (s.allOnesRun + 1) 20
    unrecoverable := decide (20 ≤ s.allOnesRun + 1)
    fatalCause := if 20 ≤ s.allOnesRun + 1 then .busErrorStorm else s.fatalCause } := by
  unfold State.countAllOnes
  by_cases h : 20 ≤ s.allOnesRun + 1
  · have hrun : min (s.allOnesRun + 1) allOnesLimit = allOnesLimit := min_eq_right h
    simp only [hrun, if_true, if_pos h, decide_eq_true h, State.setFatal, hu, Bool.false_eq_true, if_false]
    rw [min_eq_right h]
    rfl
  · have hrun : min (s.allOnesRun + 1) allOnesLimit ≠ allOnesLimit := by
      rw [allOnesLimit]
      omega
    simp only [if_neg hrun, if_neg h, decide_eq_false h, ← hu]
    rfl

theorem recvPlain_allOnes (s : State) : recvPlain 0xFF s = (none, s.countAllOnes) := if_pos rfl

/-- The values with a meaning of their own, and data (40 R155). -/
theorem recvPlain_not_allOnes (r : Byte) (s : State) (hr : r ≠ 0xFF) : recvPlain r s =
    if r = s.cfg.busEsc then (none, { s with allOnesRun := 0, escPending := true })
    else if r = s.cfg.busXoff then (none, { s with allOnesRun := 0, paused := true })
    else if r = s.cfg.busXon then (none, { s with allOnesRun := 0, paused := false })
    else if r = s.cfg.busIdle ∨ r = s.cfg.busAck ∨ r = 0x00 then (none, { s with allOnesRun := 0 })
    else (some r, { s with allOnesRun := 0 }) := if_neg hr

theorem codecRecv_bus_not_ready (s t : State) (hm : s.linkMode = .bus) (hu : s.unrecoverable = false)
    (he : s.escPending = false) (hready : busDataReady s = (false, t)) : codecRecv s = (none, t) := by
  unfold codecRecv
  rw [if_neg (by simp [hu]), hm, hready]
  exact if_neg (by simp [he])

theorem exec_codecRecv_eq (s : State) :
    exec .codecRecv s = .next ((codecRecv s).2.respond (.byte (codecRecv s).1)) := rfl

/-- The state once a value has come in on the bus with no escape pending (40 R155). -/
def State.afterReady (s : State) (r : Byte) (rest : List Byte) (q : List Bool) : State :=
  { s with
    env := { s.env with dataReady := q, exchanges := rest }
    trace := .exchange s.cfg.busIdle r :: .ready true :: s.trace }

/-- Settles O20: what is received with no escape pending goes through `recvPlain`, branch by branch. -/
theorem busReceiveByValue : Obligations.BusReceiveByValue := by
  intro s hv hm hu
  refine ⟨fun r rest he hx => ?escaped, fun q he hq => ?notReady, fun r rest q he hq hx => ?ready⟩
  case escaped => exact exec_codecRecv s _ _ (codecRecv_escaped_script s r rest hm hu he hx)
  case notReady => exact exec_codecRecv s _ _ (codecRecv_bus_not_ready s _ hm hu he (busDataReady_script s false q hq))
  case ready =>
    have hrecv : codecRecv s = recvPlain r (s.afterReady r rest q) := codecRecv_ready_script s r rest q hm hu he hq hx
    intro u
    by_cases hones : r = 0xFF
    · subst hones
      rw [recvPlain_allOnes, countAllOnes_alive (s.afterReady _ rest q) hu] at hrecv
      rw [if_pos rfl]
      exact exec_codecRecv s _ _ hrecv
    rw [if_neg hones]
    replace hrecv := hrecv.trans (recvPlain_not_allOnes r _ hones)
    by_cases hesc : r = s.cfg.busEsc
    · rw [if_pos hesc]
      exact exec_codecRecv s _ _ (hrecv.trans (if_pos hesc))
    rw [if_neg hesc]
    replace hrecv := hrecv.trans (if_neg hesc)
    by_cases hoff : r = s.cfg.busXoff
    · rw [if_pos hoff]
      exact exec_codecRecv s _ _ (hrecv.trans (if_pos hoff))
    rw [if_neg hoff]
    replace hrecv := hrecv.trans (if_neg hoff)
    by_cases hon : r = s.cfg.busXon
    · rw [if_pos hon]
      exact exec_codecRecv s _ _ (hrecv.trans (if_pos hon))
    rw [if_neg hon]
    replace hrecv := hrecv.trans (if_neg hon)
    by_cases hquiet : r = s.cfg.busIdle ∨ r = s.cfg.busAck ∨ r = 0x00
    · rw [if_pos hquiet]
      exact exec_codecRecv s _ _ (hrecv.trans (if_pos hquiet))
    · rw [if_neg hquiet]
      exact exec_codecRecv s _ _ (hrecv.trans (if_neg hquiet))

/-! ## POLL, SERVICE and the reads by what their poll answers (46 R420, R421, R455) -/

/-- What POLL answers to the outcome of its poll (46 R420). -/
def PollResult.code : PollResult → ResultCode
  | .byte => .ok
  | .noByte => .errNoByte
  | .dead => .errUnrecoverable

theorem exec_poll {s t : State} {p : PollResult} (ha : s.alive) (hp : pollOnce s = (p, t)) :
    exec .poll s = .next { t with result := some (.record [p.code.byte]) } := by
  have hexec := exec_of_alive (i := .poll) ha rfl
  simp only [hp] at hexec
  rw [hexec]
  cases p <;> rfl

theorem serviceLoop_dead {s t : State} (n : Nat) (hp : pollOnce s = (.dead, t)) :
    serviceLoop (n + 1) s = (false, t) := by
  rw [serviceLoop, hp]

theorem exec_service_dead {s t : State} (ha : s.alive) (h : serviceLoop s.cfg.serviceMaxIter s = (false, t)) :
    exec .service s = .next { t with result := some (.record [0x02]) } := by
  have hexec := exec_of_alive (i := .service) ha rfl
  simp only [h] at hexec
  exact hexec

theorem Config.serviceMaxIter_pos (cfg : Config) (h : cfg.valid = true) : 1 ≤ cfg.serviceMaxIter := by
  simp only [Config.valid, Bool.and_eq_true, decide_eq_true_eq] at h
  obtain ⟨⟨⟨⟨⟨⟨-, hmax⟩, -⟩, -⟩, -⟩, -⟩, -⟩ := h
  exact hmax

/-- A read operation whose poll kills the block. -/
theorem reads_dead {s t : State} (ha : s.alive) (hp : prepare s = (false, t)) (c : Cid) (n : Half) :
    ∀ i ∈ [Instr.peek (BitVec.ofNat 8 c.val), .read (BitVec.ofNat 8 c.val), .readBuf (BitVec.ofNat 8 c.val) n, .readAny,
      .firstCid, .available (BitVec.ofNat 8 c.val), .availableAny],
      exec i s = .next { t with result := some (.record [0x02]) } := by
  have hcid := cidOperand_cid c
  have hdead (f : State → State) : s.prepared f = _ := State.prepared_dead hp f
  simp only [List.forall_mem_cons, List.not_mem_nil, false_imp_iff, implies_true, and_true]
  exact ⟨(exec_of_operand ha rfl hcid).trans (congrArg _ (hdead _)),
    (exec_of_operand ha rfl hcid).trans (congrArg _ (hdead _)),
    (exec_of_operand ha rfl hcid).trans (congrArg _ (hdead _)), (exec_of_alive ha rfl).trans (congrArg _ (hdead _)),
    (exec_of_alive ha rfl).trans (congrArg _ (hdead _)), (exec_of_operand ha rfl hcid).trans (congrArg _ (hdead _)),
    (exec_of_alive ha rfl).trans (congrArg _ (hdead _))⟩

/-! ## WRITE and WRITE_TO up to their first frame (46 R440 to R442) -/

/-- WRITE, or WRITE_TO for an address. -/
def writeOf (c : Cid) (addr : Option NetAddr) (data : List Byte) : Instr :=
  match addr with
  | none => .write (BitVec.ofNat 8 c.val) data
  | some a => .writeTo (BitVec.ofNat 8 c.val) a.ip a.port data

theorem exec_writeOf {s : State} (ha : s.alive) (c : Cid) (addr : Option NetAddr) (data : List Byte) :
    exec (writeOf c addr data) s = .next (writeNext c addr data 0 s).resume := by
  cases addr with
  | none => exact exec_of_operand (i := .write (BitVec.ofNat 8 c.val) data) ha rfl (cidOperand_cid c)
  | some a =>
    exact exec_of_operand (i := .writeTo (BitVec.ofNat 8 c.val) a.ip a.port data) ha rfl (cidOperand_cid c)

theorem beginFrame_eq (c : Cid) (addr : Option NetAddr) (data : List Byte) (k : FrameCaller) (s : State) :
    beginFrame c addr data k s = { s with
      dataResp := .none, dataWait := true
      activity := some (.send (frameBytes s.cfg c addr data) (.frame k)), result := none } := by
  cases addr <;> rfl

section
variable {c : Cid} {addr : Option NetAddr} {data : List Byte} {n : Nat} {s : State}

theorem writeNext_end (h : data = []) :
    writeNext c addr data n s = s.finish (.record (0x00 :: countBytes n)) := if_pos h

theorem writeNext_not_connected (h : data ≠ []) (hc : s.conn[c].connected = false) :
    writeNext c addr data n s = s.finish (.record [0x04]) :=
  (if_neg h).trans (if_neg (show ¬ (s.connAt c).connected = true from Bool.eq_false_iff.1 hc))

theorem writeNext_connected (h : data ≠ []) (hc : s.conn[c].connected = true) : writeNext c addr data n s =
    beginFrame c addr (data.take maxFrame) (.write c addr (data.drop maxFrame) n) s := (if_neg h).trans (if_pos hc)

theorem frameBytes_ne_nil (cfg : Config) (h : data ≠ []) : frameBytes cfg c addr data ≠ [] := by
  cases addr <;> simp [frameBytes, h]

end

/-- Settles O57: neither case begins a frame, so the step has nothing to run. -/
theorem writeChecksBeforeSending : Obligations.WriteChecksBeforeSending := by
  intro c ip port data s ha
  have hboth (addr : Option NetAddr) :
      (data = [] → exec (writeOf c addr data) s =
          .next { s with activity := none, result := some (.record [0x00, 0x00, 0x00]) })
        ∧ (data ≠ [] → s.conn[c].connected = false → exec (writeOf c addr data) s =
          .next { s with activity := none, result := some (.record [0x04]) }) := by
    rw [exec_writeOf ha]
    refine ⟨fun hnil => ?_, fun hne hc => ?_⟩
    · rw [writeNext_end hnil, State.resume, runActivity_of_idle _ _ rfl, countBytes_of_lt 0 (by decide)]
      rfl
    · rw [writeNext_not_connected hne hc, State.resume, runActivity_of_idle _ _ rfl]
      rfl
  exact List.forall_mem_cons.2 ⟨hboth none, List.forall_mem_singleton.2 (hboth (some ⟨ip, port⟩))⟩

/-! ## The storm (40 R156) -/

/-- The dead state that the twentieth marker makes. -/
def State.stormed (s : State) : State :=
  { s with allOnesRun := 20, unrecoverable := true, fatalCause := .busErrorStorm }

section
variable {s : State} {rest : List Byte} {q : List Bool} (hm : s.linkMode = .bus) (hu : s.unrecoverable = false)
  (he : s.escPending = false) (hq : s.env.dataReady = true :: q) (hx : s.env.exchanges = 0xFF :: rest)
include hm hu he hq hx

theorem codecRecv_allOnes : codecRecv s = (none, { s.afterReady 0xFF rest q with
    allOnesRun := min (s.allOnesRun + 1) 20
    unrecoverable := decide (20 ≤ s.allOnesRun + 1)
    fatalCause := if 20 ≤ s.allOnesRun + 1 then .busErrorStorm else s.fatalCause }) :=
  (codecRecv_ready_script s 0xFF rest q hm hu he hq hx).trans
    (congrArg (Prod.mk none) (countAllOnes_alive (s.afterReady 0xFF rest q) hu))

theorem codecRecv_twentieth (hrun : s.allOnesRun = 19) :
    codecRecv s = (none, (s.afterReady 0xFF rest q).stormed) := by
  rw [codecRecv_allOnes hm hu he hq hx, hrun]
  rfl

end

theorem afterTimes_succ (i : Instr) (n : Nat) (s : State) : afterTimes i (n + 1) s = after i (afterTimes i n s) := by
  induction n generalizing s with
  | zero => rfl
  | succ n ih => rw [afterTimes, ih, afterTimes]

/-- Up to 19 markers in a row: the block is alive, and the run counts them. -/
theorem afterTimes_codecRecv_allOnes {s : State} {rest : List Byte} {q : List Bool} (hm : s.linkMode = .bus)
    (hu : s.unrecoverable = false) (he : s.escPending = false) (hrun : s.allOnesRun = 0)
    (hx : s.env.exchanges = List.replicate 20 0xFF ++ rest) (hq : s.env.dataReady = List.replicate 20 true ++ q)
    (k : Nat) (hk : k ≤ 19) :
    let t := afterTimes .codecRecv k s
    t.linkMode = .bus ∧ t.unrecoverable = false ∧ t.escPending = false ∧ t.allOnesRun = k
      ∧ t.env.exchanges = List.replicate (20 - k) 0xFF ++ rest
      ∧ t.env.dataReady = List.replicate (20 - k) true ++ q := by
  induction k with
  | zero => exact ⟨hm, hu, he, hrun, hx, hq⟩
  | succ k ih =>
    obtain ⟨hm', hu', he', hrun', hx', hq'⟩ := ih (by omega)
    have hleft : 20 - k = 20 - (k + 1) + 1 := by omega
    rw [hleft, List.replicate_succ, List.cons_append] at hx' hq'
    rw [afterTimes_succ, after_of_exec (exec_codecRecv _ _ _ (codecRecv_allOnes hm' hu' he' hq' hx'))]
    refine ⟨hm', ?_, he', ?_, rfl, rfl⟩
    · exact decide_eq_false (by omega)
    · exact (min_eq_left (by omega)).trans (congrArg (· + 1) hrun')

/-- A byte whose sending kills the block ends the send: no later byte goes out (60 R486). -/
theorem passSend_dies (b : Byte) (bytes : List Byte) (k : SendThen) (s : State) (hu : s.unrecoverable = false)
    (hp : s.paused = false) (hdead : (sendByte b s).unrecoverable = true) :
    passSend (b :: bytes) k s = sendFailed k (sendByte b s) := by
  have hsend : (sendBytes (b :: bytes) s).2 = sendByte b s := by
    rw [sendBytes, if_neg (by simp [hu]), if_neg (by simp [hp])]
    cases bytes with
    | nil => rfl
    | cons c rest => rw [sendBytes, if_pos hdead]
  rw [passSend, if_neg (by simp [hu]), if_neg (by simp [hp])]
  simp only [hsend, hdead, if_true]

/-- The twentieth marker, received with the first value of a byte's escaped form: the form is completed. -/
theorem sendByte_twentieth (b : Byte) (s : State) (rest : List Byte) (hv : s.cfg.valid = true) (hm : s.linkMode = .bus)
    (hu : s.unrecoverable = false) (hrun : s.allOnesRun = 19)
    (hx : s.env.exchanges =
      0xFF :: List.replicate ((escBytes s.cfg b).length - 1) s.cfg.busIdle ++ rest) : sendByte b s = { s with
    env := { s.env with exchanges := rest }
    trace := (List.zipWith LinkEvent.exchange (escBytes s.cfg b)
      (0xFF :: List.replicate ((escBytes s.cfg b).length - 1) s.cfg.busIdle)).reverse ++ s.trace
    allOnesRun := if b ∈ s.cfg.reserved then 0 else 20
    unrecoverable := true, fatalCause := .busErrorStorm } := by
  have hfirst (t : Byte) (answers : List Byte) (h : s.env.exchanges = 0xFF :: answers) :
      exchangeOut t s = (s.afterExchange t 0xFF answers).stormed := by
    rw [exchangeOut_script t 0xFF s answers h]
    refine (if_pos rfl).trans ((countAllOnes_alive (s.afterExchange t 0xFF answers) hu).trans ?_)
    simp only [State.afterExchange, State.stormed, hrun]
    rfl
  rw [sendByte_bus b s hm]
  by_cases hb : b ∈ s.cfg.reserved
  · rw [escBytes_reserved hb] at hx ⊢
    have hsecond := exchangeOut_idle (b ^^^ s.cfg.busMask)
      (s.afterExchange s.cfg.busEsc 0xFF (s.cfg.busIdle :: rest)).stormed rest hv rfl
    rw [exchangeAll, exchangeAll, exchangeAll, hfirst _ _ hx, if_pos hb]
    exact hsecond
  · rw [escBytes_not_reserved hb] at hx ⊢
    rw [exchangeAll, exchangeAll, hfirst _ _ hx, if_neg hb]
    rfl

/-- The same for the first byte of a send. -/
theorem resume_twentieth {s : State} {b : Byte} {bytes rest : List Byte} {k : SendThen} (hv : s.cfg.valid = true)
    (hm : s.linkMode = .bus) (hu : s.unrecoverable = false) (hp : s.paused = false) (hrun : s.allOnesRun = 19)
    (ha : s.activity = some (.send bytes k)) (hne : bytes ≠ []) (hb : b = bytes.headD 0)
    (hx : s.env.exchanges =
      0xFF :: List.replicate ((escBytes s.cfg b).length - 1) s.cfg.busIdle ++ rest)
    (hend : ∀ t : State, (sendFailed k t).activity = none) : s.resume = sendFailed k { s with
      env := { s.env with exchanges := rest }
      trace := (List.zipWith LinkEvent.exchange (escBytes s.cfg b)
        (0xFF :: List.replicate ((escBytes s.cfg b).length - 1) s.cfg.busIdle)).reverse ++ s.trace
      allOnesRun := if b ∈ s.cfg.reserved then 0 else 20
      unrecoverable := true, fatalCause := .busErrorStorm } := by
  obtain ⟨c, bytes, rfl⟩ := List.exists_cons_of_ne_nil hne
  obtain rfl : b = c := hb
  have hsend := sendByte_twentieth b s rest hv hm hu hrun hx
  have hpass := passSend_dies b bytes k s hu hp (by rw [hsend])
  rw [hsend] at hpass
  rw [State.resume_of_pass_ends s _ ha ((congrArg State.activity hpass).trans (hend _))]
  exact hpass

/-! ## READ_RESPONSE up to its loop (43 R303) -/

theorem exec_readResponse {s : State} (ha : s.alive) {rmode : Byte} {n : Half} {mode : RMode}
    (ho : rmodeOperand rmode = some mode) (hcap : ¬ (mode = RMode.raw ∧ n.toNat < s.cfg.maxRespLen + 1)) :
    exec (.readResponse rmode n) s = .next ({ s with
      line := LineState.fresh mode (if mode = RMode.raw then n.toNat else s.cfg.lineBufInternal) }.beginActivity
        (.response false)).resume :=
  (exec_of_operand ha rfl ho).trans (congrArg Host.Outcome.next (if_neg hcap))

theorem passResponse_dead {s t : State} (e : Bool) (h : codecRecv s = (none, t)) (hu : t.unrecoverable = true) :
    passResponse e s = responseFailed t := by
  rw [passResponse, h]
  exact if_pos hu

/-- Settles O22: the first nineteen markers are counted; the twentieth kills the block in whatever operation receives
it, which then ends. -/
theorem twentiethAllOnesKills : Obligations.TwentiethAllOnesKills := by
  refine ⟨fun s rest q hm hu he hrun hx hq => ?counted, fun s rest q hv ha hm he hrun hx hq => ?polls,
    fun s rest hv ha hm hp hrun => ?sends⟩
  case counted =>
    refine ⟨fun k hk => ?_, ?_⟩
    · obtain ⟨-, hu', -, hrun', -⟩ := afterTimes_codecRecv_allOnes hm hu he hrun hx hq k hk
      exact ⟨hu', hrun'⟩
    · obtain ⟨hm', hu', he', hrun', hx', hq'⟩ := afterTimes_codecRecv_allOnes hm hu he hrun hx hq 19 le_rfl
      rw [afterTimes_succ, after_of_exec (exec_codecRecv _ _ _ (codecRecv_twentieth hm' hu' he' hq' hx' hrun'))]
      exact ⟨rfl, rfl⟩
  case polls =>
    have hrecv := codecRecv_twentieth hm ha.2 he hq hx hrun
    have hpoll := pollOnce_dead hrecv rfl
    refine ⟨exec_poll ha hpoll, ?_, ?_, fun hempty c n => ?_⟩
    · obtain ⟨n, hn⟩ := Nat.exists_eq_add_of_le' (Config.serviceMaxIter_pos s.cfg hv)
      exact exec_service_dead ha (by rw [hn, serviceLoop_dead n hpoll])
    · rw [exec_readResponse ha (mode := .discard) rfl (by simp), if_neg (by decide)]
      have hrecv' := codecRecv_twentieth (s := { s with
        line := LineState.fresh .discard s.cfg.lineBufInternal }.beginActivity (.response false)) hm ha.2 he hq hx hrun
      have hpass := passResponse_dead false hrecv' rfl
      exact congrArg Host.Outcome.next
        ((State.resume_of_pass_ends _ (.response false) rfl (congrArg State.activity hpass)).trans hpass)
    · have hused := State.used_of_empty hempty.1
      have hz : availableBytes s = 0 := by rw [availableBytes_eq, hused, Nat.min_zero]
      exact reads_dead ha (prepare_of_dead (State.advanced_of_used hused) hz hpoll) c n
  case sends =>
    intro wire answers u
    refine ⟨fun text b hb hx => ?_, fun c addr data b hc hne hb hx => ?_⟩
    · have hhead : b = (text ++ [chCR, chLF]).headD 0 := by
        rw [hb]
        cases text <;> rfl
      have hresume (k : SendThen) := resume_twentieth (k := k)
        (s := s.beginActivity (.send (text ++ [chCR, chLF]) k)) hv hm ha.2 hp hrun rfl (by simp) hhead hx
      exact ⟨(exec_of_alive ha rfl).trans (congrArg _ (hresume .command fun _ => rfl)),
        (exec_of_alive ha rfl).trans (congrArg _ (hresume .commandExpectOk fun _ => rfl))⟩
    · have hframe : data.take maxFrame ≠ [] := by simp [hne, maxFrame]
      have hresume := resume_twentieth (s := writeNext c addr data 0 s)
        (k := .frame (.write c addr (data.drop maxFrame) 0)) (bytes := frameBytes s.cfg c addr (data.take maxFrame))
        (b := b) (rest := rest)
      rw [writeNext_connected hne hc, beginFrame_eq] at hresume
      have hexec := exec_writeOf ha c addr data
      rw [writeNext_connected hne hc, beginFrame_eq,
        hresume hv hm ha.2 hp hrun rfl (frameBytes_ne_nil s.cfg hframe) hb hx fun _ => rfl] at hexec
      cases addr <;> exact hexec

end Sys2Proof.Machine
end

section
/-! PROOFS. The receive state machine away from the link (41_receive_sm.md): RX_PROCESS reads and writes neither the link
nor the lifecycle, the codec, the line state, the operation in progress or the last result. So it does in the passes and
polls of an operation what it does when it is run alone, byte by byte. -/

namespace Sys2Proof.Machine

/-- The state with the registers that the receive path does not touch taken from another: lifecycle, codec, line state,
operation in progress, ports, link and result. -/
def State.withLinkOf (s t : State) : State :=
  { s with
    lifecycle := t.lifecycle, linkMode := t.linkMode, unrecoverable := t.unrecoverable, fatalCause := t.fatalCause
    paused := t.paused, escPending := t.escPending, allOnesRun := t.allOnesRun, line := t.line, activity := t.activity
    port := t.port, env := t.env, result := t.result, trace := t.trace }

section
variable (s t : State)

@[simp] theorem State.withLinkOf_cfg : (s.withLinkOf t).cfg = s.cfg := rfl
@[simp] theorem State.withLinkOf_rxState : (s.withLinkOf t).rxState = s.rxState := rfl
@[simp] theorem State.withLinkOf_scratch : (s.withLinkOf t).scratch = s.scratch := rfl
@[simp] theorem State.withLinkOf_scratchLen : (s.withLinkOf t).scratchLen = s.scratchLen := rfl
@[simp] theorem State.withLinkOf_yCid : (s.withLinkOf t).yCid = s.yCid := rfl
@[simp] theorem State.withLinkOf_yIp : (s.withLinkOf t).yIp = s.yIp := rfl
@[simp] theorem State.withLinkOf_yPort : (s.withLinkOf t).yPort = s.yPort := rfl
@[simp] theorem State.withLinkOf_result : (s.withLinkOf t).result = t.result := rfl
@[simp] theorem State.withLinkOf_self : s.withLinkOf s = s := rfl
@[simp] theorem State.withLinkOf_withLinkOf (u : State) : (s.withLinkOf t).withLinkOf u = s.withLinkOf u := rfl

/-! ## The ring -/

theorem dropUnit_withLinkOf : dropUnit (s.withLinkOf t) = (dropUnit s).withLinkOf t := by
  unfold dropUnit
  by_cases h : s.tail.length ≠ 0
  · rw [if_pos h, if_pos (show (s.withLinkOf t).tail.length ≠ 0 from h)]
    rfl
  · rw [if_neg h, if_neg (show ¬ (s.withLinkOf t).tail.length ≠ 0 from h)]
    rfl

theorem dropLoop_withLinkOf (n k : Nat) : dropLoop n k (s.withLinkOf t) = (dropLoop n k s).withLinkOf t := by
  induction k generalizing s with
  | zero => rfl
  | succ k ih =>
    by_cases h : s.free < n ∧ 0 < s.used
    · rw [dropLoop, if_pos (show (s.withLinkOf t).free < n ∧ 0 < (s.withLinkOf t).used from h), dropUnit_withLinkOf, ih,
        dropLoop, if_pos h]
    · rw [dropLoop, if_neg (show ¬ ((s.withLinkOf t).free < n ∧ 0 < (s.withLinkOf t).used) from h), dropLoop, if_neg h]

theorem pushHeader_withLinkOf (h : FrameHeader) : pushHeader h (s.withLinkOf t) = (pushHeader h s).withLinkOf t := by
  rw [pushHeader_eq, pushHeader_eq, dropOldest, dropLoop_withLinkOf]
  rfl

theorem pushByte_withLinkOf (b : Byte) : pushByte b (s.withLinkOf t) = (pushByte b s).withLinkOf t := by
  rw [pushByte, dropOldest, dropLoop_withLinkOf]
  rfl

/-! ## The arms of RX_PROCESS -/

theorem acceptHeader_withLinkOf (h : FrameHeader) :
    acceptHeader h (s.withLinkOf t) = (acceptHeader h s).withLinkOf t := by
  have hpush := pushHeader_withLinkOf { s with head := h } t h
  rw [acceptHeader, show { s.withLinkOf t with head := h } = State.withLinkOf { s with head := h } t from rfl, hpush]
  rfl

theorem asyncDispatch_withLinkOf (subtype : Cid) (body : List Byte) :
    (asyncDispatch subtype body (s.withLinkOf t)).2 = (asyncDispatch subtype body s).2.withLinkOf t := by
  have hdispatch := asyncDispatch_withEventsOf (s.withLinkOf t) s rfl subtype body
  obtain ⟨_, _, _, _, _, _, _, hevents⟩ := eventsOnly_asyncDispatch subtype body s
  rw [show s.withLinkOf t = (s.withLinkOf t).withEventsOf s from rfl, hdispatch, hevents]
  rfl

theorem rxIdle_withLinkOf (b : Byte) : rxIdle b (s.withLinkOf t) = ((rxIdle b s).1, (rxIdle b s).2.withLinkOf t) := by
  unfold rxIdle
  by_cases hb : b = s.cfg.escChar
  · rw [if_pos hb, if_pos (show b = (s.withLinkOf t).cfg.escChar from hb)]
    rfl
  · rw [if_neg hb, if_neg (show ¬ b = (s.withLinkOf t).cfg.escChar from hb)]

theorem rxEscape_withLinkOf (b : Byte) : rxEscape b (s.withLinkOf t) = (rxEscape b s).withLinkOf t := by
  rw [rxEscape_eq, rxEscape_eq]
  simp only [apply_ite (State.withLinkOf · t)]
  rfl

theorem rxEscapeZ_withLinkOf (b : Byte) : rxEscapeZ b (s.withLinkOf t) = (rxEscapeZ b s).withLinkOf t := by
  have hpush : pushScratch b (s.withLinkOf t) = (pushScratch b s).withLinkOf t := rfl
  simp only [rxEscapeZ, hpush, scratchSlice, State.withLinkOf_scratch, State.withLinkOf_scratchLen]
  generalize pushScratch b s = u
  by_cases hshort : u.scratchLen < 5
  · simp only [hshort, if_true]
  · simp only [hshort, if_false]
    cases parseHexCid (u.scratch.read 0) with
    | none => rfl
    | some c =>
      cases parseDec16 (u.scratch.readN 1 4) with
      | none => rfl
      | some n => exact acceptHeader_withLinkOf u t _

theorem rxEscapeA_withLinkOf (b : Byte) : rxEscapeA b (s.withLinkOf t) = (rxEscapeA b s).withLinkOf t := by
  have hpush : pushScratch b (s.withLinkOf t) = (pushScratch b s).withLinkOf t := rfl
  simp only [rxEscapeA, hpush, scratchSlice, State.withLinkOf_scratch, State.withLinkOf_scratchLen]
  generalize pushScratch b s = u
  by_cases hshort : u.scratchLen < 3
  · simp only [hshort, if_true]
  · simp only [hshort, if_false]
    cases parseHexCid (u.scratch.read 0) with
    | none => rfl
    | some subtype =>
      cases parseInt (u.scratch.readN 1 2) asyncLenBase 8 with
      | none => rfl
      | some n =>
        have hdispatch := asyncDispatch_withLinkOf { u with scratchLen := 0 } t subtype []
        by_cases hn : n = 0
        · simp only [hn, if_true]
          exact congrArg (fun v : State => { v with rxState := .idle }) hdispatch
        · simp only [hn, if_false]
          rfl

theorem rxAsync_withLinkOf (b : Byte) : rxAsync b (s.withLinkOf t) = (rxAsync b s).withLinkOf t := by
  let u := { s with asyncBuf := s.asyncBuf.write s.asyncCount b, asyncCount := s.asyncCount + 1 }
  have hdispatch := asyncDispatch_withLinkOf u t u.asyncSubtype (u.asyncBuf.readN 0 u.asyncLen)
  rw [rxAsync_of_stored (t := u.withLinkOf t) rfl, rxAsync_of_stored (t := u) rfl]
  by_cases h : u.asyncCount = u.asyncLen
  · rw [if_pos h, if_pos (show (u.withLinkOf t).asyncCount = (u.withLinkOf t).asyncLen from h)]
    exact congrArg (fun v : State => { v with asyncCount := 0, rxState := .idle }) hdispatch
  · rw [if_neg h, if_neg (show ¬ (u.withLinkOf t).asyncCount = (u.withLinkOf t).asyncLen from h)]

theorem rxEscapeY1_withLinkOf (b : Byte) : rxEscapeY1 b (s.withLinkOf t) = (rxEscapeY1 b s).withLinkOf t := by
  simp only [rxEscapeY1, scratchSlice, State.withLinkOf_scratch, State.withLinkOf_scratchLen]
  by_cases hsp : b = chSP
  · by_cases hshort : s.scratchLen < 2
    · simp only [hsp, hshort, if_true]
      rfl
    · simp only [hsp, hshort, if_true, if_false]
      cases parseHexCid (s.scratch.read 0) with
      | none => rfl
      | some c => cases parseFullIp (s.scratch.readN 1 (s.scratchLen - 1)) <;> rfl
  · simp only [hsp, if_false]
    by_cases hfull : s.scratchLen = scratchSize
    · simp only [hfull, if_true]
      rfl
    · simp only [hfull, if_false]
      rfl

theorem rxEscapeY2_withLinkOf (b : Byte) : rxEscapeY2 b (s.withLinkOf t) = (rxEscapeY2 b s).withLinkOf t := by
  simp only [rxEscapeY2, scratchSlice, State.withLinkOf_scratch, State.withLinkOf_scratchLen]
  by_cases hht : b = chHT
  · by_cases hempty : s.scratchLen = 0
    · simp only [hht, hempty, if_true]
      rfl
    · simp only [hht, hempty, if_true, if_false]
      cases parseDec16 (s.scratch.readN 0 s.scratchLen) <;> rfl
  · simp only [hht, if_false]
    by_cases hfull : s.scratchLen = 5
    · simp only [hfull, if_true]
      rfl
    · simp only [hfull, if_false]
      rfl

theorem rxEscapeY3_withLinkOf (b : Byte) : rxEscapeY3 b (s.withLinkOf t) = (rxEscapeY3 b s).withLinkOf t := by
  have hpush : pushScratch b (s.withLinkOf t) = (pushScratch b s).withLinkOf t := rfl
  simp only [rxEscapeY3, hpush, scratchSlice, State.withLinkOf_scratch, State.withLinkOf_scratchLen,
    State.withLinkOf_yCid, State.withLinkOf_yIp, State.withLinkOf_yPort]
  generalize pushScratch b s = u
  by_cases hshort : u.scratchLen < 4
  · simp only [hshort, if_true]
  · simp only [hshort, if_false]
    cases parseDec16 (u.scratch.readN 0 4) with
    | none => rfl
    | some n => exact acceptHeader_withLinkOf u t _

theorem rxBulk_withLinkOf (b : Byte) : rxBulk b (s.withLinkOf t) = (rxBulk b s).withLinkOf t := by
  rw [rxBulk, pushByte_withLinkOf, rxBulk]
  rfl

theorem rxProcess_withLinkOf (b : Byte) :
    rxProcess b (s.withLinkOf t) = ((rxProcess b s).1, (rxProcess b s).2.withLinkOf t) := by
  cases hs : s.rxState with
  | idle => rw [rxProcess_idle b (s := s.withLinkOf t) hs, rxProcess_idle b hs, rxIdle_withLinkOf]
  | escape => rw [rxProcess_escape b (s := s.withLinkOf t) hs, rxProcess_escape b hs, rxEscape_withLinkOf]
  | escapeZ => rw [rxProcess_escapeZ b (s := s.withLinkOf t) hs, rxProcess_escapeZ b hs, rxEscapeZ_withLinkOf]
  | escapeA => rw [rxProcess_escapeA b (s := s.withLinkOf t) hs, rxProcess_escapeA b hs, rxEscapeA_withLinkOf]
  | escapeY1 => rw [rxProcess_escapeY1 b (s := s.withLinkOf t) hs, rxProcess_escapeY1 b hs, rxEscapeY1_withLinkOf]
  | escapeY2 => rw [rxProcess_escapeY2 b (s := s.withLinkOf t) hs, rxProcess_escapeY2 b hs, rxEscapeY2_withLinkOf]
  | escapeY3 => rw [rxProcess_escapeY3 b (s := s.withLinkOf t) hs, rxProcess_escapeY3 b hs, rxEscapeY3_withLinkOf]
  | async => rw [rxProcess, State.withLinkOf_rxState, hs, rxProcess, hs, rxAsync_withLinkOf]
  | bulk => rw [rxProcess_bulk b (s := s.withLinkOf t) hs, rxProcess_bulk b hs, rxBulk_withLinkOf]


end

/-! ## Runs of bytes -/

/-- RX_PROCESS for each of the bytes, in order, with no answer given (41 R190). -/
def receiveAll : List Byte → State → State
  | [], s => s
  | b :: bs, s => receiveAll bs (rxProcess b s).2

theorem receiveAll_append (xs ys : List Byte) (s : State) :
    receiveAll (xs ++ ys) s = receiveAll ys (receiveAll xs s) := by
  induction xs generalizing s with
  | nil => rfl
  | cons x xs ih => exact ih _

theorem receiveOnly_receiveAll (bs : List Byte) (s : State) : receiveOnly s (receiveAll bs s) := by
  induction bs generalizing s with
  | nil => exact .refl s
  | cons b bs ih => exact (receiveOnly_rxProcess b s).trans (ih _)

theorem receiveAll_withLinkOf (bs : List Byte) (s t : State) :
    receiveAll bs (s.withLinkOf t) = (receiveAll bs s).withLinkOf t := by
  induction bs generalizing s with
  | nil => rfl
  | cons b bs ih => rw [receiveAll, rxProcess_withLinkOf, ih, receiveAll]

theorem feed_eq_receiveAll (bs : List Byte) (s : State) : feed bs s = (receiveAll bs s).withLinkOf (feed bs s) := by
  induction bs generalizing s with
  | nil => rfl
  | cons b bs ih =>
    have hafter : after (.rxProcess b) s = (rxProcess b s).2.withLinkOf (after (.rxProcess b) s) := by
      obtain ⟨_, _, _, _, _, _, _, _, _, _, _, _, _, _, _, _, _, _, _, _, _, _, _, he⟩ := receiveOnly_rxProcess b s
      rw [show after (.rxProcess b) s = (rxProcess b s).2.respond (.rx (rxProcess b s).1) from rfl, he]
      rfl
    have hrun : feed (b :: bs) s = feed bs (after (.rxProcess b) s) := rfl
    rw [hrun]
    refine (ih _).trans ?_
    conv_lhs => rw [hafter, receiveAll_withLinkOf]
    rfl

/-- Received without answers and received by the micro-operation differ in the last answer alone. -/
theorem receiveAll_eq_feed (bs : List Byte) (s : State) : receiveAll bs s = (feed bs s).withLinkOf s := by
  rw [feed_eq_receiveAll, State.withLinkOf_withLinkOf, ← receiveAll_withLinkOf, State.withLinkOf_self]

/-! ## POLL (46 R420) -/

theorem pollOnce_stream_byte {s : State} {b : Byte} {rest : List (Option Byte)} (hu : s.unrecoverable = false)
    (hm : s.linkMode = .stream) (h : s.env.linkReads = some b :: rest) :
    pollOnce s = (.byte, (rxProcess b s).2.withLinkOf (s.afterRead (some b) rest)) := by
  rw [pollOnce_byte (codecRecv_stream_script hu hm h) hu]
  exact congrArg (fun x => (PollResult.byte, Prod.snd x)) (rxProcess_withLinkOf s (s.afterRead (some b) rest) b)

/-- POLL takes one byte, of any value. -/
theorem exec_poll_byte {s t : State} {b : Byte} (ha : s.alive) (h : codecRecv s = (some b, t))
    (hu : t.unrecoverable = false) :
    exec .poll s = .next { (rxProcess b t).2 with result := some (.record [0x00]) } :=
  exec_poll ha (pollOnce_byte h hu)

theorem exec_poll_noByte {s t : State} (ha : s.alive) (h : codecRecv s = (none, t)) (hu : t.unrecoverable = false) :
    exec .poll s = .next { t with result := some (.record [0x0B]) } :=
  exec_poll ha (pollOnce_noByte h hu)

/-- What CODEC_RECV returns for a value received with no escape pending: data, and nothing for a reserved value
(40 R155). -/
theorem recvPlain_result (r : Byte) (s : State) :
    (recvPlain r s).1 = if r ∈ s.cfg.reserved then none else some r := by
  by_cases hones : r = 0xFF
  · subst hones
    rw [recvPlain_allOnes, if_pos (by simp [Config.reserved, busAllOnes])]
  · rw [recvPlain_not_allOnes r s hones]
    have hmem : r ∈ s.cfg.reserved ↔ r = s.cfg.busEsc ∨ r = s.cfg.busXoff ∨ r = s.cfg.busXon
        ∨ r = s.cfg.busIdle ∨ r = s.cfg.busAck ∨ r = 0x00 := by
      simp only [Config.reserved, List.mem_cons, List.not_mem_nil, or_false, busAllOnes, busAllZeros, hones]
      tauto
    by_cases hesc : r = s.cfg.busEsc
    · rw [if_pos hesc, if_pos (hmem.2 (.inl hesc))]
    · rw [if_neg hesc]
      by_cases hxoff : r = s.cfg.busXoff
      · rw [if_pos hxoff, if_pos (hmem.2 (.inr (.inl hxoff)))]
      · rw [if_neg hxoff]
        by_cases hxon : r = s.cfg.busXon
        · rw [if_pos hxon, if_pos (hmem.2 (.inr (.inr (.inl hxon))))]
        · rw [if_neg hxon]
          by_cases hidle : r = s.cfg.busIdle ∨ r = s.cfg.busAck ∨ r = 0x00
          · rw [if_pos hidle, if_pos (hmem.2 (.inr (.inr (.inr hidle))))]
          · rw [if_neg hidle, if_neg (fun h => by have := hmem.1 h; tauto)]

/-- Only a full ALL-ONES run kills the block (40 R156). -/
theorem recvPlain_unrecoverable (r : Byte) (s : State) (hu : s.unrecoverable = false) :
    (recvPlain r s).2.unrecoverable = decide (r = 0xFF ∧ 19 ≤ s.allOnesRun) := by
  by_cases hones : r = 0xFF
  · subst hones
    rw [recvPlain_allOnes, countAllOnes_alive s hu]
    simp
  · rw [recvPlain_not_allOnes r s hones, decide_eq_false (fun h => hones h.1)]
    simp only [apply_ite Prod.snd, apply_ite State.unrecoverable, hu, ite_self]

theorem recvPlain_link (r : Byte) (s : State) :
    (recvPlain r s).2.env = s.env ∧ (recvPlain r s).2.trace = s.trace := by
  by_cases hones : r = 0xFF
  · subst hones
    rw [recvPlain_allOnes, State.countAllOnes]
    simp only [apply_ite State.env, apply_ite State.trace, State.setFatal, ite_self, and_self]
  · rw [recvPlain_not_allOnes r s hones]
    simp only [apply_ite Prod.snd, apply_ite State.env, apply_ite State.trace, ite_self, and_self]

theorem after_codecRecv_eq {s t : State} {r : Option Byte} (h : codecRecv s = (r, t)) :
    after .codecRecv s = t.respond (.byte r) := by
  rw [after_of_exec (exec_codecRecv_eq s), h]

/-- RX_PROCESS of the byte CODEC_RECV answered, whatever the answers stand at. -/
theorem after_rxProcess_respond (b : Byte) (t : State) (r x : Response) :
    { after (.rxProcess b) (t.respond r) with result := some x } = { (rxProcess b t).2 with result := some x } := by
  have hlink : t.respond r = t.withLinkOf (t.respond r) := rfl
  have hafter : after (.rxProcess b) (t.respond r) =
      (rxProcess b (t.respond r)).2.respond (.rx (rxProcess b (t.respond r)).1) := rfl
  obtain ⟨_, _, _, _, _, _, _, _, _, _, _, _, _, _, _, _, _, _, _, _, _, _, _, he⟩ := receiveOnly_rxProcess b t
  rw [hafter, hlink, rxProcess_withLinkOf, he]
  rfl

/-- Settles O51: the three answers of CODEC_RECV are the three ends of POLL; on the bus a value received goes through
`recvPlain`. -/
theorem pollTakesOneByte : Obligations.PollTakesOneByte := by
  refine ⟨fun a rest s ha hm hq => ?_, fun s ha => ?_, fun r rest q s hv ha hm he hq hx => ?_⟩
  · have hrecv := codecRecv_stream_script ha.2 hm hq
    cases a with
    | none => exact exec_poll_noByte ha hrecv ha.2
    | some b => exact (exec_poll_byte ha hrecv ha.2).trans rfl
  · rcases hr : codecRecv s with ⟨r, t⟩
    rw [after_codecRecv_eq hr]
    cases hu : t.unrecoverable with
    | true => exact (exec_poll ha (pollOnce_dead hr hu)).trans (congrArg Host.Outcome.next (if_pos hu).symm)
    | false =>
      refine Eq.trans ?_ (congrArg Host.Outcome.next (if_neg (by simp [State.respond, hu])).symm)
      cases r with
      | none => exact (exec_poll_noByte ha hr hu).trans rfl
      | some b => exact (exec_poll_byte ha hr hu).trans (congrArg Host.Outcome.next
          (after_rxProcess_respond b t (.byte (some b)) (.record [0x00])).symm)
  · have hrecv := codecRecv_ready_script s r rest q hm ha.2 he hq hx
    generalize hw : ({ s with
      env := { s.env with dataReady := q, exchanges := rest }
      trace := .exchange s.cfg.busIdle r :: .ready true :: s.trace } : State) = w at hrecv
    have hresult := recvPlain_result r w
    have hdead := recvPlain_unrecoverable r w (by rw [← hw]; exact ha.2)
    obtain ⟨henv, htrace⟩ := recvPlain_link r w
    rw [← hrecv] at hresult hdead henv htrace
    rcases hr : codecRecv s with ⟨v, t⟩
    rw [hr] at hresult hdead henv htrace
    simp only [← hw] at hresult hdead henv htrace
    by_cases hstorm : r = 0xFF ∧ 19 ≤ s.allOnesRun
    · have hpoll := exec_poll ha (pollOnce_dead hr (hdead.trans (decide_eq_true hstorm)))
      rw [after_of_exec hpoll, if_pos hstorm.1, if_pos hstorm.2]
      exact ⟨hpoll, henv, htrace, rfl⟩
    · have hlive := hdead.trans (decide_eq_false hstorm)
      by_cases hres : r ∈ s.cfg.reserved
      · rw [if_pos hres] at hresult
        have hpoll := exec_poll_noByte ha (hr.trans (by rw [hresult])) hlive
        rw [after_of_exec hpoll]
        refine ⟨hpoll, henv, htrace, ?_⟩
        by_cases hones : r = 0xFF
        · rw [if_pos hones, if_neg (fun h => hstorm ⟨hones, h⟩)]
        · rw [if_neg hones, if_pos hres]
      · rw [if_neg hres] at hresult
        have hpoll := exec_poll_byte ha (hr.trans (by rw [hresult])) hlive
        have hones : r ≠ 0xFF := fun h => hres (by simp [h, Config.reserved, busAllOnes])
        obtain ⟨_, _, _, _, _, _, _, _, _, _, _, _, _, _, _, _, _, _, _, _, _, _, _, ht⟩ := receiveOnly_rxProcess r t
        rw [after_of_exec hpoll, if_neg hones, if_neg hres]
        refine ⟨hpoll, ?_, ?_, rfl⟩
        · rw [ht]
          exact henv
        · rw [ht]
          exact htrace

end Sys2Proof.Machine
end

section
/-! PROOFS. SERVICE (46_host_ops.md R455): how often it calls the link, what it answers with no byte there, and where it
stops when a frame header comes in. -/

namespace Sys2Proof.Machine

/-! ## How often CODEC_RECV calls the link (40_bus_codec.md R155) -/

theorem linkRead_trace_length (s : State) : (linkRead s).2.trace.length = s.trace.length + 1 := by
  unfold linkRead
  split <;> rfl

theorem busExchange_trace_length (t : Byte) (s : State) : (busExchange t s).2.trace.length = s.trace.length + 1 := by
  unfold busExchange
  split <;> rfl

theorem busDataReady_trace_length (s : State) : (busDataReady s).2.trace.length = s.trace.length + 1 := by
  unfold busDataReady
  split <;> rfl

theorem recvBus_trace_length (s : State) : (recvBus s).2.trace.length = s.trace.length + 1 := by
  unfold recvBus
  rw [← busExchange_trace_length s.cfg.busIdle s]
  simp only [apply_ite Prod.snd, apply_ite State.trace, (recvPlain_link _ _).2, ite_self]

/-- One call on the stream link; on the bus the data-ready line and the exchange. -/
def LinkMode.receiveCalls : LinkMode → Nat
  | .stream => 1
  | .bus => 2

theorem codecRecv_trace_length (s : State) :
    (codecRecv s).2.trace.length ≤ s.trace.length + s.linkMode.receiveCalls := by
  unfold codecRecv
  split
  · exact Nat.le_add_right _ _
  · cases s.linkMode with
    | stream => exact (linkRead_trace_length s).le
    | bus =>
      dsimp only
      split
      · exact (recvBus_trace_length s).le.trans (Nat.le_succ _)
      · have hready := busDataReady_trace_length s
        split
        · exact ((recvBus_trace_length _).trans (by rw [hready]; rfl)).le
        · exact hready.le.trans (Nat.le_succ _)

theorem rxProcess_trace (b : Byte) (s : State) : (rxProcess b s).2.trace = s.trace := by
  obtain ⟨_, _, _, _, _, _, _, _, _, _, _, _, _, _, _, _, _, _, _, _, _, _, _, he⟩ := receiveOnly_rxProcess b s
  rw [he]

theorem rxProcess_linkMode (b : Byte) (s : State) : (rxProcess b s).2.linkMode = s.linkMode := by
  obtain ⟨_, _, _, _, _, _, _, _, _, _, _, _, _, _, _, _, _, _, _, _, _, _, _, he⟩ := receiveOnly_rxProcess b s
  rw [he]

theorem pollOnce_trace_length (s : State) :
    (pollOnce s).2.trace.length ≤ s.trace.length + s.linkMode.receiveCalls
      ∧ (pollOnce s).2.linkMode = s.linkMode := by
  have hlen := codecRecv_trace_length s
  have hmode := (codecOnly_codecRecv s).linkMode
  rcases hr : codecRecv s with ⟨r, t⟩
  rw [hr] at hlen hmode
  cases hu : t.unrecoverable with
  | true =>
    rw [pollOnce_dead hr hu]
    exact ⟨hlen, hmode⟩
  | false =>
    cases r with
    | none =>
      rw [pollOnce_noByte hr hu]
      exact ⟨hlen, hmode⟩
    | some b =>
      rw [pollOnce_byte hr hu, rxProcess_trace, rxProcess_linkMode]
      exact ⟨hlen, hmode⟩

theorem serviceLoop_trace_length (n : Nat) (s : State) :
    (serviceLoop n s).2.trace.length ≤ s.trace.length + n * s.linkMode.receiveCalls := by
  induction n generalizing s with
  | zero => exact Nat.le_add_right _ _
  | succ n ih =>
    obtain ⟨hlen, hmode⟩ := pollOnce_trace_length s
    rw [serviceLoop, Nat.succ_mul]
    rcases hp : pollOnce s with ⟨p, t⟩
    rw [hp] at hlen hmode
    have hstop : t.trace.length ≤ s.trace.length + (n * s.linkMode.receiveCalls + s.linkMode.receiveCalls) := by
      dsimp only at hlen
      omega
    cases p with
    | dead => exact hstop
    | noByte => exact hstop
    | byte =>
      dsimp only
      split
      · exact hstop
      · have hrest := ih t
        rw [show t.linkMode = s.linkMode from hmode] at hrest
        dsimp only at hlen
        omega

/-! ## What SERVICE answers -/

theorem exec_service_alive {s t : State} (ha : s.alive) (h : serviceLoop s.cfg.serviceMaxIter s = (true, t)) :
    exec .service s = .next ((clearEvents t).hostOk [eventByte t, cidByte t.ncmCid]) := by
  have hexec := exec_of_alive (i := .service) ha rfl
  simp only [h] at hexec
  exact hexec

theorem serviceLoop_noByte {s t : State} (n : Nat) (hp : pollOnce s = (.noByte, t)) :
    serviceLoop (n + 1) s = (true, t) := by
  rw [serviceLoop, hp]

theorem eventByte_eq (s : State) : eventByte s = BitVec.ofNat 8
    ((if s.ncmPending = .disconnected then 1 else 0) + (if s.assocPending = .disassociated then 2 else 0)
      + (if s.assocPending = .associated then 4 else 0) + (if s.ncmPending = .connected then 8 else 0)) := by
  rw [← eventByte_toNat, BitVec.ofNat_toNat, BitVec.setWidth_eq]

theorem receiveCalls_eq (m : LinkMode) : m.receiveCalls = if m = .stream then 1 else 2 := by
  cases m <;> rfl

/-- Settles O55: with no byte the loop ends at once; and each turn of it makes one CODEC_RECV. -/
theorem serviceDeliversPendingEvents : Obligations.ServiceDeliversPendingEvents := by
  refine ⟨fun rest s hv ha hm hq => ?_, fun s t hexec => ?_⟩
  · obtain ⟨n, hn⟩ : ∃ n, s.cfg.serviceMaxIter = n + 1 := ⟨_, (Nat.sub_add_cancel (Config.serviceMaxIter_pos s.cfg hv)).symm⟩
    have hpoll := pollOnce_noByte (codecRecv_stream_script ha.2 hm hq) ha.2
    have hserve := exec_service_alive ha (hn ▸ serviceLoop_noByte n hpoll)
    rw [eventByte_eq] at hserve
    exact hserve
  · rw [← receiveCalls_eq]
    by_cases ha : s.alive
    · rcases hloop : serviceLoop s.cfg.serviceMaxIter s with ⟨alive, u⟩
      have hlen := serviceLoop_trace_length s.cfg.serviceMaxIter s
      rw [hloop] at hlen
      cases alive with
      | true => exact (Host.Outcome.next.inj ((exec_service_alive ha hloop).symm.trans hexec)) ▸ hlen
      | false => exact (Host.Outcome.next.inj ((exec_service_dead ha hloop).symm.trans hexec)) ▸ hlen
    · obtain ⟨f, hf⟩ := exec_eq_gated .service rfl
      have ht := Host.Outcome.next.inj ((hf s).symm.trans hexec)
      have htrace : t.trace = s.trace := by
        by_cases hl : s.lifecycle = .stopped
        · rw [← ht, s.gated_stopped f hl]
        · have hu : s.unrecoverable = true := by
            by_contra hu
            exact ha ⟨hl, Bool.not_eq_true _ ▸ hu⟩
          rw [← ht, s.gated_dead f hl hu]
      rw [htrace]
      exact Nat.le_add_right _ _

/-! ## A frame header that comes in (46 R455) -/

/-- The state once LinkRead has answered with each of the bytes (00 R9). -/
def State.afterReads (s : State) (bs : List Byte) (rest : List (Option Byte)) : State :=
  { s with
    env := { s.env with linkReads := rest }
    trace := (bs.map fun b => LinkEvent.read (some b)).reverse ++ s.trace }

/-- The bytes received one by one from the link, none of them before the last making the block enter a frame. -/
theorem serviceLoop_reads (bs : List Byte) (n : Nat) (rest : List (Option Byte)) (s : State)
    (hu : s.unrecoverable = false) (hm : s.linkMode = .stream) (hq : s.env.linkReads = bs.map some ++ rest)
    (hn : bs.length ≤ n) (hne : bs ≠ [])
    (hbefore : ∀ k, 0 < k → k < bs.length → (receiveAll (bs.take k) s).rxState ≠ .bulk)
    (hlast : (receiveAll bs s).rxState = .bulk) :
    serviceLoop n s = (true, (receiveAll bs s).withLinkOf (s.afterReads bs rest)) := by
  induction bs generalizing n s with
  | nil => exact absurd rfl hne
  | cons b bs ih =>
    obtain ⟨n, rfl⟩ : ∃ m, n = m + 1 := ⟨n - 1, by simp at hn; omega⟩
    rw [serviceLoop, pollOnce_stream_byte hu hm hq]
    generalize hw : s.afterRead (some b) (bs.map some ++ rest) = w
    have hrun := fun cs => receiveAll_withLinkOf cs (rxProcess b s).2 w
    dsimp only
    cases bs with
    | nil =>
      rw [if_pos (show ((rxProcess b s).2.withLinkOf w).rxState = .bulk from hlast), ← hw]
      rfl
    | cons c cs =>
      have hmid : ¬ ((rxProcess b s).2.withLinkOf w).rxState = .bulk := hbefore 1 (by simp) (by simp)
      rw [if_neg hmid, ih n ((rxProcess b s).2.withLinkOf w) (by rw [← hw]; exact hu) (by rw [← hw]; exact hm)
        (by rw [← hw]; rfl) (by simpa using hn) (by simp)
        (fun k hk hlen => by rw [hrun]; exact hbefore (k + 1) (by omega) (by simpa using hlen))
        (by rw [hrun]; exact hlast), hrun, State.withLinkOf_withLinkOf, ← hw]
      simp [State.afterReads, State.afterRead, receiveAll, State.withLinkOf]

/-- ESC and the bulk introducer open a bulk header whatever the other introducers are: they are tested first. -/
theorem feed_bulkIntroducer (s : State) (hidle : s.rxState = .idle) :
    feed [s.cfg.escChar] s = { s with rxState := .escape, result := some (.rx .absorbed) }
      ∧ feed [s.cfg.escChar, s.cfg.introZ] s = s.collecting .escapeZ [] := by
  have hesc : after (.rxProcess s.cfg.escChar) s = { s with rxState := .escape, result := some (.rx .absorbed) } := by
    rw [after, exec_rxProcess_idle _ s hidle, if_pos rfl]
  refine ⟨hesc, ?_⟩
  rw [feed, hesc, feed, after_rxProcess, rxProcess_escape _ rfl, rxEscape_eq, if_pos rfl]
  rfl

theorem encodeRxHeader_plain (cfg : Config) (h : FrameHeader) (hu : h.udp = false) :
    encodeRxHeader cfg h = [cfg.escChar, cfg.introZ] ++ (hexU h.cid :: dec4 h.length.toNat) := by
  simp [encodeRxHeader, hu]

theorem length_plainFields (h : FrameHeader) (hlen : h.length.toNat < 10000) :
    (hexU h.cid :: dec4 h.length.toNat).length = 5 := by
  obtain ⟨pre, last, hdec, hpre⟩ := dec4_eq_snoc h.length.toNat hlen
  rw [hdec, List.length_cons, List.length_append, hpre, List.length_singleton]

/-- Before its last byte a bulk header is still being collected. -/
theorem feed_plainHeader_prefix (h : FrameHeader) (s : State) (hidle : s.rxState = .idle) (hu : h.udp = false)
    (k : Nat) (hpos : 0 < k) (hk : k < 7) :
    (feed ((encodeRxHeader s.cfg h).take k) s).rxState ≠ .bulk := by
  obtain ⟨hesc, hintro⟩ := feed_bulkIntroducer s hidle
  rw [encodeRxHeader_plain s.cfg h hu]
  match k, hpos with
  | 1, _ => exact fun hbulk => nomatch (congrArg State.rxState hesc).symm.trans hbulk
  | j + 2, _ =>
    have hstores : ∀ b ∈ (hexU h.cid :: dec4 h.length.toNat).take j,
        ∀ n < ((hexU h.cid :: dec4 h.length.toNat).take j).length, storesNext .escapeZ n b := by
      intro b _ n hn
      rw [List.length_take] at hn
      exact Nat.lt_of_lt_of_le hn (by omega)
    have hcollect := feed_collecting _ s .escapeZ hstores
    rw [show ([s.cfg.escChar, s.cfg.introZ] ++ (hexU h.cid :: dec4 h.length.toNat)).take (j + 2) =
      [s.cfg.escChar, s.cfg.introZ] ++ (hexU h.cid :: dec4 h.length.toNat).take j from rfl, feed_append, hintro,
      hcollect]
    exact fun hbulk => nomatch hbulk

theorem feed_bulkHeader (h : FrameHeader) (s : State) (hidle : s.rxState = .idle) (hw : s.scratch.wf = true)
    (hu : h.udp = false) (hbare : plainIsBare h) (hlen : h.length.toNat < 10000) :
    ∃ t, feed (encodeRxHeader s.cfg h) s = (acceptHeader h t).respond (.rx .absorbed) := by
  rw [encodeRxHeader_plain s.cfg h hu, feed_append, (feed_bulkIntroducer s hidle).2,
    feed_bulkFields s h.cid h.length hw hlen, plainIsBare_eq h hbare hu]
  exact ⟨_, rfl⟩

/-- Settles O56: the bytes of the header are taken one by one, and the last of them enters the frame. -/
theorem serviceStopsAtTheFrame : Obligations.ServiceStopsAtTheFrame := by
  intro h payload s hinv ha hm hidle hu hbare hpos hlen hmax hq
  have hwire : (encodeRxHeader s.cfg h).length = 7 := by
    rw [encodeRxHeader_plain s.cfg h hu, List.length_append, length_plainFields h (by omega)]
    rfl
  obtain ⟨u, hfeed⟩ := feed_bulkHeader h s hidle hinv.scratch_form hu hbare (by omega)
  have hall : receiveAll (encodeRxHeader s.cfg h) s = (acceptHeader h u).withLinkOf s := by
    rw [receiveAll_eq_feed, hfeed]
    rfl
  have hbulk : (acceptHeader h u).rxState = .bulk := if_neg fun hz => by simp [hz] at hpos
  have hloop := serviceLoop_reads (encodeRxHeader s.cfg h) s.cfg.serviceMaxIter payload s ha.2 hm hq (by omega)
    (fun hnil => by simp [hnil] at hwire)
    (fun k hk hlt => by
      rw [receiveAll_eq_feed]
      exact feed_plainHeader_prefix h s hidle hu k hk (by omega))
    (by rw [hall]; exact hbulk)
  rw [hall] at hloop
  exact ⟨_, _, _, exec_service_alive ha hloop, rfl, hbulk, acceptHeader_head h u, rfl⟩

end Sys2Proof.Machine
end

section
/-! PROOFS. The command lines and the response timeout (43_correlator.md R306, R307): what SEND_COMMAND puts on the link,
and the block after a read that timed out. -/

namespace Sys2Proof.Machine

/-! ## The response timeout (43 R306, 60 R486) -/

theorem passResponse_expired {s : State} (e : Bool) (hm : s.linkMode = .stream) (hu : s.unrecoverable = false)
    {rest : List (Option Byte)} {q : List Bool} (hq : s.env.linkReads = none :: rest)
    (hx : s.env.expired = true :: q) :
    passResponse e s = responseFailed { s with
      env := { s.env with linkReads := rest, expired := q }
      trace := .expired true :: .read none :: s.trace
      unrecoverable := true, fatalCause := .responseTimeout } := by
  have htimer := expired_script (s.afterRead none rest) true q hx
  rw [passResponse, codecRecv_stream_script hu hm hq]
  dsimp only
  rw [if_neg (by rw [show (s.afterRead none rest).unrecoverable = s.unrecoverable from rfl, hu]; decide), htimer]
  exact (if_pos rfl).trans (congrArg responseFailed (if_neg (by
    rw [show (s.afterRead none rest).unrecoverable = s.unrecoverable from rfl, hu]; decide)))

theorem exec_start_started {mode : Byte} {s : State} (h : s.lifecycle ≠ .stopped) :
    exec (.start mode) s = .next { s with result := some (.record [0x09]) } :=
  congrArg Host.Outcome.next (if_pos h)

/-- Settles O38: the read ends in its first pass, and the gate turns every later operation away. -/
theorem responseTimeoutKillsTheBlock : Obligations.ResponseTimeoutKillsTheBlock := by
  intro rest q s ha hm hq hx t
  refine ⟨?_, fun i hi => ?_, fun ok => ?_, fun mode => exec_start_started (s := t) ha.1⟩
  · rw [exec_readResponse ha (mode := .discard) rfl (by simp), if_neg (by decide)]
    have hpass := passResponse_expired (s := { s with
      line := LineState.fresh .discard s.cfg.lineBufInternal }.beginActivity (.response false)) false hm ha.2 hq hx
    exact congrArg Host.Outcome.next
      ((State.resume_of_pass_ends _ (.response false) rfl (congrArg State.activity hpass)).trans hpass)
  · obtain ⟨f, hf⟩ := exec_eq_gated i hi
    rw [hf, State.gated_dead t f ha.1 rfl]
  · rw [exec_startDone, State.gated_dead t _ ha.1 rfl]

/-! ## SEND_COMMAND (43 R307) -/

theorem exec_sendCommand {s : State} (ha : s.alive) (text : List Byte) :
    exec (.sendCommand text) s = .next (s.beginActivity (.send (text ++ [chCR, chLF]) .command)).resume :=
  exec_of_alive (f := fun s => (s.beginActivity (.send (text ++ [chCR, chLF]) .command)).resume) ha rfl

/-- Settles O39: the line goes out in one pass. -/
theorem sendCommandWritesTheLine : Obligations.SendCommandWritesTheLine := by
  refine ⟨fun text s ha hm => ?_, ?_⟩
  · have hpass := passSend_stream (text ++ [chCR, chLF]) .command
      (s.beginActivity (.send (text ++ [chCR, chLF]) .command)) hm ha.2
    rw [exec_sendCommand ha]
    exact congrArg Host.Outcome.next
      ((State.resume_of_pass_ends _ (.send (text ++ [chCR, chLF]) .command) rfl
        (congrArg State.activity hpass)).trans hpass)
  · intro text rest s hv ha hm hp wire hx
    have hpass := passSend_idle (text ++ [chCR, chLF]) .command
      (s.beginActivity (.send (text ++ [chCR, chLF]) .command)) rest hv hm ha.2 hp (by simp) hx
    rw [exec_sendCommand ha]
    exact congrArg Host.Outcome.next
      ((State.resume_of_pass_ends _ (.send (text ++ [chCR, chLF]) .command) rfl
        (congrArg State.activity hpass)).trans hpass)

end Sys2Proof.Machine
end

section
/-! PROOFS. Frames on the wire (46_host_ops.md R440 to R444): the round of one frame, which is its bytes, ESC and the
letter of the data response, in STREAM and in BUS mode; and WRITE as its rounds one after the other. -/

namespace Sys2Proof.Machine

/-! ## The data response (41 R192, 46 R443) -/

/-- The letter, the register value and the result code of a data response. -/
def answerLetter (cfg : Config) (accepted : Bool) : Byte := if accepted = true then cfg.introOk else cfg.introFail
def answerResp (accepted : Bool) : DataResp := if accepted = true then .ok else .fail
def answerCode (accepted : Bool) : ResultCode := if accepted = true then .ok else .errDataRejected

theorem rxProcess_escChar {s : State} (hidle : s.rxState = .idle) :
    (rxProcess s.cfg.escChar s).2 = { s with rxState := .escape } := by
  rw [rxProcess_idle _ hidle, rxIdle, if_pos rfl]

/-- The letter of a data response ends the escape, and is the answer if one is awaited. -/
theorem rxProcess_answer {s : State} (accepted : Bool) (hd : lettersDiffer s.cfg) (hesc : s.rxState = .escape)
    (hw : s.dataWait = true) (hr : s.dataResp = .none) :
    (rxProcess (answerLetter s.cfg accepted) s).2 =
      { s with scratchLen := 0, dataResp := answerResp accepted, rxState := .idle } := by
  simp only [lettersDiffer, List.nodup_cons, List.mem_cons, not_or, List.not_mem_nil, or_false] at hd
  obtain ⟨⟨-, -, hzo, hzf, -⟩, ⟨-, hao, haf, -⟩, ⟨hyo, hyf, -⟩, ⟨hof, -⟩, -⟩ := hd
  rw [rxProcess_escape _ hesc, rxEscape_eq]
  cases accepted with
  | true =>
    rw [answerLetter, if_pos rfl, if_neg (Ne.symm hzo), if_neg (Ne.symm hao), if_neg (Ne.symm hyo),
      if_pos (Or.inl rfl), if_pos ⟨hw, hr⟩, if_pos rfl]
    rfl
  | false =>
    rw [answerLetter, if_neg (show ¬ false = true by decide), if_neg (Ne.symm hzf), if_neg (Ne.symm haf), if_neg (Ne.symm hyf),
      if_pos (Or.inr rfl), if_pos ⟨hw, hr⟩, if_neg (Ne.symm hof)]
    rfl

section
variable {s t u : State} (caller : FrameCaller)

theorem passDataWait_byte {b : Byte} (hr : s.dataResp = .none) (h : codecRecv s = (some b, t))
    (ht : t.unrecoverable = false) : passDataWait caller s = (rxProcess b t).2 := by
  rw [passDataWait, hr, h]
  exact if_neg (by simp [ht])

theorem passDataWait_expired {rest : List (Option Byte)} {q : List Bool} (hm : s.linkMode = .stream)
    (hu : s.unrecoverable = false) (hr : s.dataResp = .none) (hq : s.env.linkReads = none :: rest)
    (hx : s.env.expired = true :: q) :
    passDataWait caller s = frameDone caller .errUnrecoverable { s with
      env := { s.env with linkReads := rest, expired := q }
      trace := .expired true :: .read none :: s.trace
      unrecoverable := true, fatalCause := .dataResponseTimeout } := by
  have htimer := expired_script (s.afterRead none rest) true q hx
  have halive : ¬ (s.afterRead none rest).unrecoverable = true := by
    rw [show (s.afterRead none rest).unrecoverable = s.unrecoverable from rfl, hu]
    decide
  rw [passDataWait, hr, codecRecv_stream_script hu hm hq]
  dsimp only
  rw [if_neg halive, htimer]
  refine (if_pos rfl).trans ((congrArg (frameDone caller .errUnrecoverable) (if_neg halive)).trans ?_)
  rw [← hr]
  rfl

theorem passDataWait_answered (accepted : Bool) (hr : s.dataResp = answerResp accepted) :
    passDataWait caller s = frameDone caller (answerCode accepted) s := by
  rw [passDataWait, hr]
  cases accepted <;> rfl

/-- CODEC_RECV leaves the operation, the frame's wait and the receive state alone. -/
theorem codecRecv_frame {r : Option Byte} (h : codecRecv s = (r, t)) :
    t.cfg = s.cfg ∧ t.activity = s.activity ∧ t.dataWait = s.dataWait ∧ t.dataResp = s.dataResp
      ∧ t.rxState = s.rxState := by
  have honly := codecOnly_codecRecv s
  rw [h] at honly
  obtain ⟨_, _, _, _, _, _, _, _, rfl⟩ := honly
  exact ⟨rfl, rfl, rfl, rfl, rfl⟩

/-- ESC and the letter received while the frame waits: three passes to its end. -/
theorem runActivity_answer (accepted : Bool) (n : Nat) (ha : s.activity = some (.dataWait caller))
    (hd : lettersDiffer s.cfg) (hidle : s.rxState = .idle) (hw : s.dataWait = true) (hr : s.dataResp = .none)
    (h1 : codecRecv s = (some s.cfg.escChar, t)) (ht : t.unrecoverable = false)
    (h2 : codecRecv { t with rxState := .escape } = (some (answerLetter s.cfg accepted), u))
    (hu : u.unrecoverable = false) :
    runActivity (n + 3) s = runActivity n (frameDone caller (answerCode accepted)
      { u with scratchLen := 0, dataResp := answerResp accepted, rxState := .idle }) := by
  obtain ⟨hcfg, hact, hwait, hresp, hrx⟩ := codecRecv_frame h1
  obtain ⟨hcfg', hact', hwait', hresp', hrx'⟩ := codecRecv_frame h2
  replace hcfg' : u.cfg = s.cfg := hcfg'.trans hcfg
  have hesc := passDataWait_byte caller hr h1 ht
  rw [← hcfg, rxProcess_escChar (hrx.trans hidle)] at hesc
  have hletter := passDataWait_byte (s := { t with rxState := .escape }) caller (hresp.trans hr) h2 hu
  rw [← hcfg', rxProcess_answer accepted (hcfg'.symm ▸ hd) hrx' (hwait'.trans (hwait.trans hw))
    (hresp'.trans (hresp.trans hr))] at hletter
  have hlast := passDataWait_answered caller accepted (s := { u with
    scratchLen := 0, dataResp := answerResp accepted, rxState := .idle }) rfl
  calc runActivity (n + 3) s
    _ = runActivity (n + 2) (passDataWait caller s) := runActivity_succ _ _ _ ha
    _ = runActivity (n + 1) (passDataWait caller { t with rxState := .escape }) := by
      rw [hesc]
      exact runActivity_succ (n + 1) { t with rxState := .escape } _ (hact.trans ha)
    _ = runActivity n (passDataWait caller
          { u with scratchLen := 0, dataResp := answerResp accepted, rxState := .idle }) := by
      rw [hletter]
      exact runActivity_succ n { u with scratchLen := 0, dataResp := answerResp accepted, rxState := .idle } _
        (hact'.trans (hact.trans ha))
    _ = _ := by rw [hlast]

end

/-! ## The round of one frame (46 R442, R443) -/

/-- A frame begins: its bytes are to be sent, and no answer is in. -/
def State.frameBegun (s : State) (tx : List Byte) (caller : FrameCaller) : State :=
  { s with
    dataResp := .none, dataWait := true
    activity := some (.send tx (.frame caller)), result := none }

theorem beginFrame_begun (c : Cid) (addr : Option NetAddr) (data : List Byte) (caller : FrameCaller) (s : State) :
    beginFrame c addr data caller s = s.frameBegun (frameBytes s.cfg c addr data) caller :=
  beginFrame_eq c addr data caller s

/-- The frame is sent and waits for its answer. -/
def State.frameSent (s : State) (caller : FrameCaller) (env : Env) (trace : List LinkEvent) (run : Nat) : State :=
  { s with env := env, trace := trace, allOnesRun := run, activity := some (.dataWait caller) }

/-- The frame's answer is in. -/
def State.answered (s : State) (accepted : Bool) (caller : FrameCaller) (env : Env) (trace : List LinkEvent)
    (run : Nat) : State :=
  { s.frameSent caller env trace run with dataResp := answerResp accepted, scratchLen := 0 }

section
variable {s : State} {tx : List Byte} (caller : FrameCaller) (accepted : Bool) (n : Nat)

theorem sendDone_frame (env : Env) (trace : List LinkEvent) (run : Nat) (hawait : s.cfg.awaitDataResponse = true) :
    sendDone (.frame caller) { s with env := env, trace := trace, allOnesRun := run } = s.frameSent caller env trace run :=
  if_pos hawait

theorem State.rxState_eq_idle (hidle : s.rxState = .idle) : { s with rxState := .idle } = s := by
  rw [← hidle]

theorem runActivity_frame_stream {rest : List (Option Byte)} (ha : s.activity = some (.send tx (.frame caller)))
    (hd : lettersDiffer s.cfg) (hidle : s.rxState = .idle) (hw : s.dataWait = true) (hr : s.dataResp = .none)
    (hawait : s.cfg.awaitDataResponse = true) (hm : s.linkMode = .stream) (hu : s.unrecoverable = false)
    (hq : s.env.linkReads = some s.cfg.escChar :: some (answerLetter s.cfg accepted) :: rest) :
    runActivity (n + 4) s = runActivity n (frameDone caller (answerCode accepted)
      (s.answered accepted caller { s.env with linkReads := rest }
          (.read (some (answerLetter s.cfg accepted)) :: .read (some s.cfg.escChar)
            :: ((tx.map LinkEvent.write).reverse ++ s.trace)) s.allOnesRun)) := by
  let t := s.frameSent caller s.env ((tx.map LinkEvent.write).reverse ++ s.trace) s.allOnesRun
  let u : State := { t.afterRead (some s.cfg.escChar) (some (answerLetter s.cfg accepted) :: rest) with
    rxState := .escape }
  have hsend : passSend tx (.frame caller) s = t :=
    (passSend_stream tx _ s hm hu).trans (sendDone_frame caller _ _ _ hawait)
  have hrun := runActivity_answer caller accepted n (s := t) rfl hd hidle hw hr
    (codecRecv_stream_script (s := t) hu hm hq) hu (codecRecv_stream_script (s := u) hu hm rfl) hu
  rw [runActivity_succ _ _ _ ha, pass, hsend, hrun]
  exact congrArg (fun v => runActivity n (frameDone caller (answerCode accepted) v))
    (State.rxState_eq_idle (s := s.answered accepted caller _ _ _) hidle)

theorem passSend_frame_idle {rest : List Byte} (hv : s.cfg.valid = true) (hm : s.linkMode = .bus)
    (hu : s.unrecoverable = false) (hp : s.paused = false)
    (hq : s.env.exchanges = List.replicate (tx.flatMap (escBytes s.cfg)).length s.cfg.busIdle ++ rest) :
    ∃ run, passSend tx (.frame caller) s = s.frameSent caller { s.env with exchanges := rest }
      (((tx.flatMap (escBytes s.cfg)).map fun b => LinkEvent.exchange b s.cfg.busIdle).reverse ++ s.trace) run := by
  have hawait := Config.awaits s.cfg hv
  by_cases hne : tx = []
  · subst hne
    refine ⟨s.allOnesRun, ?_⟩
    have hrest : { s.env with exchanges := rest } = s.env := by rw [show rest = s.env.exchanges from hq.symm]
    rw [passSend, if_neg (by simp [hu]), if_neg (by simp), hrest]
    exact (if_neg (by simp [hu])).trans
      ((if_pos rfl).trans (sendDone_frame caller s.env s.trace s.allOnesRun hawait))
  · exact ⟨0, (passSend_idle tx _ s rest hv hm hu hp hne hq).trans (sendDone_frame caller _ _ _ hawait)⟩

theorem codecRecv_data {r : Byte} {rest : List Byte} {q : List Bool} (hm : s.linkMode = .bus)
    (hu : s.unrecoverable = false) (he : s.escPending = false) (hready : s.env.dataReady = true :: q)
    (hx : s.env.exchanges = r :: rest) (hr : r ∉ s.cfg.reserved) :
    codecRecv s = (some r, { s.afterReady r rest q with allOnesRun := 0 }) :=
  (codecRecv_ready_script s r rest q hm hu he hready hx).trans (recvPlain_of_not_reserved r (s.afterReady r rest q) hr)

theorem runActivity_frame_bus {rest : List Byte} {q : List Bool} (hv : s.cfg.valid = true)
    (ha : s.activity = some (.send tx (.frame caller)))
    (hd : lettersDiffer s.cfg) (hidle : s.rxState = .idle) (hw : s.dataWait = true) (hr : s.dataResp = .none)
    (hm : s.linkMode = .bus) (hu : s.unrecoverable = false) (hp : s.paused = false) (he : s.escPending = false)
    (hesc : s.cfg.escChar ∉ s.cfg.reserved) (hletter : answerLetter s.cfg accepted ∉ s.cfg.reserved)
    (hx : s.env.exchanges = List.replicate (tx.flatMap (escBytes s.cfg)).length s.cfg.busIdle
      ++ s.cfg.escChar :: answerLetter s.cfg accepted :: rest)
    (hready : s.env.dataReady = true :: true :: q) :
    runActivity (n + 4) s = runActivity n (frameDone caller (answerCode accepted)
      (s.answered accepted caller { s.env with exchanges := rest, dataReady := q }
          (.exchange s.cfg.busIdle (answerLetter s.cfg accepted) :: .ready true
            :: .exchange s.cfg.busIdle s.cfg.escChar :: .ready true
            :: (((tx.flatMap (escBytes s.cfg)).map fun b => LinkEvent.exchange b s.cfg.busIdle).reverse ++ s.trace))
          0)) := by
  obtain ⟨run, hsend⟩ := passSend_frame_idle caller hv hm hu hp hx
  let t := s.frameSent caller { s.env with exchanges := s.cfg.escChar :: answerLetter s.cfg accepted :: rest }
    (((tx.flatMap (escBytes s.cfg)).map fun b => LinkEvent.exchange b s.cfg.busIdle).reverse ++ s.trace) run
  let u : State := { t.afterReady s.cfg.escChar (answerLetter s.cfg accepted :: rest) (true :: q) with
    allOnesRun := 0, rxState := .escape }
  have hrun := runActivity_answer caller accepted n (s := t) rfl hd hidle hw hr
    (codecRecv_data (s := t) hm hu he hready rfl hesc) hu (codecRecv_data (s := u) hm hu he rfl rfl hletter) hu
  rw [runActivity_succ _ _ _ ha, pass, hsend, hrun]
  exact congrArg (fun v => runActivity n (frameDone caller (answerCode accepted) v))
    (State.rxState_eq_idle (s := s.answered accepted caller _ _ _) hidle)

end

/-! ## WRITE_FRAME and WAIT_DATA_RESP (46 R442, R443) -/

theorem exec_writeFrame (c : Cid) (addr : Option NetAddr) (data : List Byte) (s : State) :
    exec (.writeFrame c addr data) s = .next (beginFrame c addr data .frame s).resume := rfl

theorem exec_waitDataResp (s : State) : exec .waitDataResp s = .next (s.beginActivity (.dataWait .wait)).resume := rfl

theorem State.resume_eq {s : State} {k : Nat} (hk : k ≤ s.budget) {t : State}
    (h : ∀ n, runActivity (n + k) s = runActivity n t) (ht : t.activity = none) : s.resume = t := by
  rw [State.resume, ← Nat.sub_add_cancel hk, h, runActivity_of_idle _ t ht]

theorem State.four_le_budget (s : State) : 4 ≤ s.budget := by
  rw [State.budget]
  omega

/-- Settles O60: WRITE_FRAME is one round; the wait alone ends in its first pass. -/
theorem dataResponseWait : Obligations.DataResponseWait := by
  refine ⟨?stream, ?bus, fun s => ⟨fun hr => ?_, fun hr => ?_, fun rest q hr hu hm hq hx => ?_⟩⟩
  case stream =>
    intro c addr data accepted rest s hu hd hm hidle hawait letter hq
    let begun := s.frameBegun (frameBytes s.cfg c addr data) .frame
    have hround n := runActivity_frame_stream (s := begun) .frame accepted n rfl hd hidle rfl rfl hawait hm hu hq
    have hres := State.resume_eq (State.four_le_budget begun) hround rfl
    rw [exec_writeFrame, beginFrame_begun, hres]
    rfl
  case bus =>
    intro c addr data accepted rest q s hv hu hd hm hp he hidle letter wire hesc hletter hx hready
    let begun := s.frameBegun (frameBytes s.cfg c addr data) .frame
    have hround n := runActivity_frame_bus (s := begun) .frame accepted n hv rfl hd hidle rfl rfl hm hu hp he hesc
      hletter hx hready
    have hres := State.resume_eq (State.four_le_budget begun) hround rfl
    rw [exec_writeFrame, beginFrame_begun, hres]
    rfl
  · have hpass := passDataWait_answered (s := s.beginActivity (.dataWait .wait)) .wait true hr
    exact congrArg Host.Outcome.next
      ((State.resume_of_pass_ends _ (.dataWait .wait) rfl (congrArg State.activity hpass)).trans hpass)
  · have hpass := passDataWait_answered (s := s.beginActivity (.dataWait .wait)) .wait false hr
    exact congrArg Host.Outcome.next
      ((State.resume_of_pass_ends _ (.dataWait .wait) rfl (congrArg State.activity hpass)).trans hpass)
  · have hpass := passDataWait_expired (s := s.beginActivity (.dataWait .wait)) .wait hm hu hr hq hx
    exact congrArg Host.Outcome.next
      ((State.resume_of_pass_ends _ (.dataWait .wait) rfl (congrArg State.activity hpass)).trans hpass)

end Sys2Proof.Machine
end

section
/-! PROOFS. WRITE and WRITE_TO frame by frame (46_host_ops.md R440, R441, R444): as many rounds as frames, each from
where the link stood after the last; a refused frame ends them, and so does a disconnect that comes in. -/

namespace Sys2Proof.Machine

/-! ## The frames of the data -/

/-- The `i`-th frame. -/
def frameAt (data : List Byte) (i : Nat) : List Byte := (data.drop (maxFrame * i)).take maxFrame

theorem drop_maxFrame (data : List Byte) (i : Nat) :
    (data.drop (maxFrame * i)).drop maxFrame = data.drop (maxFrame * (i + 1)) := by
  rw [List.drop_drop, Nat.mul_succ]

theorem frameAt_drop (data : List Byte) (i : Nat) : frameAt (data.drop maxFrame) i = frameAt data (i + 1) := by
  rw [frameAt, List.drop_drop, frameAt, Nat.mul_succ, Nat.add_comm]

theorem framesOf_succ (i : Nat) (data : List Byte) : framesOf (i + 1) data = framesOf i data ++ [frameAt data i] := by
  induction i generalizing data with
  | zero => rfl
  | succ i ih => rw [framesOf, ih, frameAt_drop, framesOf, List.cons_append]

theorem drop_ne_nil_of_lt_frameCount {data : List Byte} {i : Nat} (h : i < frameCount data) :
    data.drop (maxFrame * i) ≠ [] := by
  rw [frameCount, maxFrame] at h
  rw [Ne, List.drop_eq_nil_iff, maxFrame]
  omega

theorem drop_frameCount (data : List Byte) : data.drop (maxFrame * frameCount data) = [] := by
  rw [List.drop_eq_nil_iff, frameCount, maxFrame]
  omega

/-! ## Rounds one after the other -/

/-- Where the link stands: the answers left, what has been recorded, and the run of ALL-ONES markers. -/
structure LinkPoint where
  env : Env
  trace : List LinkEvent
  run : Nat

/-- The state between two frames: the link at a point, and the registers that a frame writes. -/
def State.between (s : State) (p : LinkPoint) (resp : DataResp) (wait : Bool) (n : Nat) (act : Option Activity)
    (r : Option Response) : State :=
  { s with
    env := p.env, trace := p.trace, allOnesRun := p.run
    dataResp := resp, dataWait := wait, scratchLen := n, activity := act, result := r }

/-- A frame whose bytes and whose answer take the link from one point to the next. -/
def frameAnswered (s : State) (accepted : Bool) (tx : List Byte) (p q : LinkPoint) : Prop :=
  ∀ (caller : FrameCaller) (n : Nat) (resp : DataResp) (wait : Bool) (k : Nat) (act : Option Activity)
    (r : Option Response), runActivity (n + 4) ((s.between p resp wait k act r).frameBegun tx caller) =
      runActivity n (frameDone caller (answerCode accepted)
        (s.between q (answerResp accepted) true 0 (some (.dataWait caller)) none))

section
variable {c : Cid} {addr : Option NetAddr} {data : List Byte} {s : State}

/-- The next frame of WRITE, its round and what its end makes of it. -/
theorem runActivity_writeNext {accepted : Bool} {i : Nat} {p q : LinkPoint} (hc : s.conn[c].connected = true)
    (hround : frameAnswered s accepted (frameBytes s.cfg c addr (frameAt data i)) p q)
    (hdata : data.drop (maxFrame * i) ≠ []) (n : Nat) (resp : DataResp) (wait : Bool) (k : Nat) (act : Option Activity)
    (r : Option Response) :
    runActivity (n + 4) (writeNext c addr (data.drop (maxFrame * i)) i (s.between p resp wait k act r)) =
      runActivity n (frameDone (.write c addr (data.drop (maxFrame * (i + 1))) i) (answerCode accepted)
        (s.between q (answerResp accepted) true 0
          (some (.dataWait (.write c addr (data.drop (maxFrame * (i + 1))) i))) none)) := by
  rw [writeNext_connected (s := s.between p resp wait k act r) hdata hc, beginFrame_begun, drop_maxFrame]
  exact hround _ n resp wait k act r

/-- The first `j` frames, all accepted. -/
theorem runActivity_rounds (hc : s.conn[c].connected = true) (p : Nat → LinkPoint) (j : Nat)
    (hround : ∀ i < j, frameAnswered s true (frameBytes s.cfg c addr (frameAt data i)) (p i) (p (i + 1)))
    (hdata : ∀ i < j, data.drop (maxFrame * i) ≠ []) (resp : DataResp) (wait : Bool) (k : Nat) (act : Option Activity)
    (r : Option Response) : ∃ resp' wait' k' act' r', (0 < j → resp' = .ok ∧ wait' = false ∧ k' = 0) ∧
      ∀ n, runActivity (n + 4 * j) (writeNext c addr data 0 (s.between (p 0) resp wait k act r)) =
        runActivity n (writeNext c addr (data.drop (maxFrame * j)) j (s.between (p j) resp' wait' k' act' r')) := by
  induction j with
  | zero => exact ⟨resp, wait, k, act, r, fun h => absurd h (by decide), fun n => rfl⟩
  | succ j ih =>
    obtain ⟨resp', wait', k', act', r', -, hrun⟩ :=
      ih (fun i hi => hround i (by omega)) (fun i hi => hdata i (by omega))
    refine ⟨.ok, false, 0, some (.dataWait (.write c addr (data.drop (maxFrame * (j + 1))) j)), none,
      fun _ => ⟨rfl, rfl, rfl⟩, fun n => ?_⟩
    rw [show n + 4 * (j + 1) = n + 4 + 4 * j by omega, hrun,
      runActivity_writeNext hc (hround j (by omega)) (hdata j (by omega))]
    rfl

theorem State.between_self (s : State) :
    s.between ⟨s.env, s.trace, s.allOnesRun⟩ s.dataResp s.dataWait s.scratchLen s.activity s.result = s := rfl

theorem budget_writeNext (hc : s.conn[c].connected = true) (hdata : data ≠ []) :
    s.env.answersLeft + data.length + 8 ≤ (writeNext c addr data 0 s).budget := by
  have hframe : (data.take maxFrame).length ≤ (frameBytes s.cfg c addr (data.take maxFrame)).length := by
    cases addr <;> simp [frameBytes]
  have hsplit : (data.take maxFrame).length + (data.drop maxFrame).length = data.length := by
    rw [← List.length_append, List.take_append_drop]
  rw [writeNext_connected hdata hc, beginFrame_begun]
  have hbudget : ((s.frameBegun (frameBytes s.cfg c addr (data.take maxFrame))
      (.write c addr (data.drop maxFrame) 0))).budget = s.env.answersLeft
        + ((frameBytes s.cfg c addr (data.take maxFrame)).length + (data.drop maxFrame).length) + 8 := rfl
  omega

end

/-! ## The points of a WRITE on the stream link -/

section
variable (s : State) (c : Cid) (addr : Option NetAddr) (data : List Byte)

/-- What one accepted frame records on the stream link. -/
def streamRound (f : List Byte) : List LinkEvent :=
  (frameBytes s.cfg c addr f).map LinkEvent.write ++ [.read (some s.cfg.escChar), .read (some s.cfg.introOk)]

/-- The stream link after `i` of `m` accepted frames. -/
def streamPoint (m : Nat) (rest : List (Option Byte)) (i : Nat) : LinkPoint where
  env := { s.env with
    linkReads := (List.replicate (m - i) [some s.cfg.escChar, some s.cfg.introOk]).flatten ++ rest }
  trace := ((framesOf i data).flatMap (streamRound s c addr)).reverse ++ s.trace
  run := s.allOnesRun

variable {s}

theorem frameAnswered_stream {accepted : Bool} {tx : List Byte} {p : LinkPoint} {rest : List (Option Byte)}
    (hd : lettersDiffer s.cfg) (hidle : s.rxState = .idle) (hawait : s.cfg.awaitDataResponse = true)
    (hm : s.linkMode = .stream) (hu : s.unrecoverable = false)
    (hq : p.env.linkReads = some s.cfg.escChar :: some (answerLetter s.cfg accepted) :: rest) :
    frameAnswered s accepted tx p ⟨{ p.env with linkReads := rest },
      .read (some (answerLetter s.cfg accepted)) :: .read (some s.cfg.escChar)
        :: ((tx.map LinkEvent.write).reverse ++ p.trace), p.run⟩ :=
  fun caller n resp wait k act r => runActivity_frame_stream
    (s := (s.between p resp wait k act r).frameBegun tx caller) caller accepted n rfl hd hidle rfl rfl hawait hm hu hq

theorem frameAnswered_streamPoint (m : Nat) (rest : List (Option Byte)) (hd : lettersDiffer s.cfg)
    (hidle : s.rxState = .idle) (hawait : s.cfg.awaitDataResponse = true) (hm : s.linkMode = .stream)
    (hu : s.unrecoverable = false) (i : Nat) (hi : i < m) :
    frameAnswered s true (frameBytes s.cfg c addr (frameAt data i)) (streamPoint s c addr data m rest i)
      (streamPoint s c addr data m rest (i + 1)) := by
  have hreads : (streamPoint s c addr data m rest i).env.linkReads = some s.cfg.escChar
      :: some (answerLetter s.cfg true) :: (streamPoint s c addr data m rest (i + 1)).env.linkReads := by
    simp only [streamPoint]
    rw [show m - i = m - (i + 1) + 1 by omega, List.replicate_succ]
    rfl
  have htrace : (streamPoint s c addr data m rest (i + 1)).trace = .read (some (answerLetter s.cfg true))
      :: .read (some s.cfg.escChar) :: (((frameBytes s.cfg c addr (frameAt data i)).map LinkEvent.write).reverse
        ++ (streamPoint s c addr data m rest i).trace) := by
    simp [streamPoint, framesOf_succ, streamRound, answerLetter]
  have hnext := frameAnswered_stream (tx := frameBytes s.cfg c addr (frameAt data i)) hd hidle hawait hm hu hreads
  rw [← htrace] at hnext
  exact hnext

end

/-- The writes of accepted frames among what they record. -/
theorem filter_streamRounds (s : State) (c : Cid) (addr : Option NetAddr) (frames : List (List Byte))
    (trace : List LinkEvent) (w : LinkEvent → Bool) (hw : ∀ b, w (.write b) = true) (hr : ∀ a, w (.read a) = false) :
    ((frames.flatMap (streamRound s c addr)).reverse ++ trace).filter w =
      ((frames.flatMap (frameBytes s.cfg c addr)).map LinkEvent.write).reverse ++ trace.filter w := by
  have hround (f : List Byte) : (streamRound s c addr f).filter w = (frameBytes s.cfg c addr f).map LinkEvent.write := by
    simp [streamRound, hr, List.filter_map, Function.comp_def, hw]
  rw [List.filter_append, List.filter_reverse, List.filter_flatMap, List.map_flatMap]
  simp only [hround]

/-! ## The points of a WRITE on the bus -/

section
variable (s : State) (c : Cid) (addr : Option NetAddr) (data : List Byte)

/-- The escaped form of a frame. -/
def wireOf (f : List Byte) : List Byte := (frameBytes s.cfg c addr f).flatMap (escBytes s.cfg)

/-- What one accepted frame records on the bus. -/
def busRound (f : List Byte) : List LinkEvent :=
  (wireOf s c addr f).map (fun b => LinkEvent.exchange b s.cfg.busIdle)
    ++ [.ready true, .exchange s.cfg.busIdle s.cfg.escChar, .ready true, .exchange s.cfg.busIdle s.cfg.introOk]

/-- What the module answers to one accepted frame. -/
def busAnswers (f : List Byte) : List Byte :=
  List.replicate (wireOf s c addr f).length s.cfg.busIdle ++ [s.cfg.escChar, s.cfg.introOk]

/-- The bus after `i` of `m` accepted frames. -/
def busPoint (m : Nat) (rest : List Byte) (q : List Bool) (i : Nat) : LinkPoint where
  env := { s.env with
    exchanges := (framesOf (m - i) (data.drop (maxFrame * i))).flatMap (busAnswers s c addr) ++ rest
    dataReady := List.replicate (2 * (m - i)) true ++ q }
  trace := ((framesOf i data).flatMap (busRound s c addr)).reverse ++ s.trace
  run := if i = 0 then s.allOnesRun else 0

variable {s}

theorem frameAnswered_bus {accepted : Bool} {tx : List Byte} {p : LinkPoint} {rest : List Byte} {q : List Bool}
    (hv : s.cfg.valid = true) (hd : lettersDiffer s.cfg) (hesc : s.cfg.escChar ∉ s.cfg.reserved)
    (hletter : answerLetter s.cfg accepted ∉ s.cfg.reserved) (hidle : s.rxState = .idle) (hm : s.linkMode = .bus)
    (hu : s.unrecoverable = false) (hp : s.paused = false) (he : s.escPending = false)
    (hx : p.env.exchanges = List.replicate (tx.flatMap (escBytes s.cfg)).length s.cfg.busIdle
      ++ s.cfg.escChar :: answerLetter s.cfg accepted :: rest)
    (hready : p.env.dataReady = true :: true :: q) :
    frameAnswered s accepted tx p ⟨{ p.env with exchanges := rest, dataReady := q },
      .exchange s.cfg.busIdle (answerLetter s.cfg accepted) :: .ready true
        :: .exchange s.cfg.busIdle s.cfg.escChar :: .ready true
        :: (((tx.flatMap (escBytes s.cfg)).map fun b => LinkEvent.exchange b s.cfg.busIdle).reverse ++ p.trace), 0⟩ :=
  fun caller n resp wait k act r => runActivity_frame_bus
    (s := (s.between p resp wait k act r).frameBegun tx caller) caller accepted n hv rfl hd hidle rfl rfl hm hu hp he
    hesc hletter hx hready

theorem frameAnswered_busPoint (m : Nat) (rest : List Byte) (q : List Bool) (hv : s.cfg.valid = true)
    (hd : lettersDiffer s.cfg) (hesc : s.cfg.escChar ∉ s.cfg.reserved) (hok : s.cfg.introOk ∉ s.cfg.reserved)
    (hidle : s.rxState = .idle) (hm : s.linkMode = .bus) (hu : s.unrecoverable = false) (hp : s.paused = false)
    (he : s.escPending = false) (i : Nat) (hi : i < m) :
    frameAnswered s true (frameBytes s.cfg c addr (frameAt data i)) (busPoint s c addr data m rest q i)
      (busPoint s c addr data m rest q (i + 1)) := by
  have hexchanges : (busPoint s c addr data m rest q i).env.exchanges =
      List.replicate (wireOf s c addr (frameAt data i)).length s.cfg.busIdle ++ s.cfg.escChar
        :: answerLetter s.cfg true :: (busPoint s c addr data m rest q (i + 1)).env.exchanges := by
    simp only [busPoint]
    rw [show m - i = m - (i + 1) + 1 by omega, framesOf, drop_maxFrame, List.flatMap_cons]
    simp [busAnswers, answerLetter, frameAt]
  have hready : (busPoint s c addr data m rest q i).env.dataReady =
      true :: true :: (busPoint s c addr data m rest q (i + 1)).env.dataReady := by
    simp only [busPoint]
    rw [show 2 * (m - i) = 2 * (m - (i + 1)) + 1 + 1 by omega, List.replicate_succ, List.replicate_succ]
    rfl
  have htrace : (busPoint s c addr data m rest q (i + 1)).trace =
      .exchange s.cfg.busIdle (answerLetter s.cfg true) :: .ready true :: .exchange s.cfg.busIdle s.cfg.escChar
        :: .ready true :: (((wireOf s c addr (frameAt data i)).map
          fun b => LinkEvent.exchange b s.cfg.busIdle).reverse ++ (busPoint s c addr data m rest q i).trace) := by
    simp [busPoint, framesOf_succ, busRound, answerLetter]
  have hnext := frameAnswered_bus (tx := frameBytes s.cfg c addr (frameAt data i)) (accepted := true) hv hd hesc hok
    hidle hm hu hp he hexchanges hready
  rw [show (frameBytes s.cfg c addr (frameAt data i)).flatMap (escBytes s.cfg) = wireOf s c addr (frameAt data i)
    from rfl, ← htrace] at hnext
  exact hnext

end

/-! ## The statements -/

/-- WRITE answers OK with the number of its frames. -/
theorem exec_writeOf_rounds {s : State} {c : Cid} {addr : Option NetAddr} {data : List Byte} (ha : s.alive)
    (hc : s.conn[c].connected = true) (hne : data ≠ []) (hlen : data.length < 65536) (p : Nat → LinkPoint)
    (hstart : p 0 = ⟨s.env, s.trace, s.allOnesRun⟩) (hanswers : 2 * frameCount data ≤ s.env.answersLeft)
    (hround : ∀ i < frameCount data,
      frameAnswered s true (frameBytes s.cfg c addr (frameAt data i)) (p i) (p (i + 1))) :
    exec (writeOf c addr data) s = .next (s.between (p (frameCount data)) .ok false 0 none
      (some (.record [0x00, BitVec.ofNat 8 (frameCount data), 0x00]))) := by
  obtain ⟨resp, wait, k, act, r, hlast, hrun⟩ := runActivity_rounds hc p (frameCount data) hround
    (fun i => drop_ne_nil_of_lt_frameCount) s.dataResp s.dataWait s.scratchLen s.activity s.result
  have hmany : 0 < frameCount data ∧ frameCount data ≤ 47 ∧ 2 * frameCount data ≤ data.length + 8 := by
    have hpos := List.length_pos_iff.2 hne
    rw [frameCount, maxFrame]
    omega
  obtain ⟨hpos, hfew, hle⟩ := hmany
  obtain ⟨rfl, rfl, rfl⟩ := hlast hpos
  rw [hstart, State.between_self, drop_frameCount, writeNext_end rfl] at hrun
  have hbudget := budget_writeNext (addr := addr) hc hne
  have hcount : countBytes (frameCount data) = [BitVec.ofNat 8 (frameCount data), 0x00] := by
    rw [countBytes_of_lt _ (by omega), show frameCount data / 256 = 0 by omega]
    rfl
  rw [hcount] at hrun
  rw [exec_writeOf ha]
  exact congrArg Host.Outcome.next (State.resume_eq (k := 4 * frameCount data) (by omega) hrun rfl)

/-- Settles O58: as many rounds as frames, on either link. -/
theorem writeSendsEveryFrame : Obligations.WriteSendsEveryFrame := by
  refine ⟨?stream, ?bus⟩
  case stream =>
    intro c addr data rest s ha hd hm hidle hawait hc hne hlen hq
    have hstart : streamPoint s c addr data (frameCount data) rest 0 = ⟨s.env, s.trace, s.allOnesRun⟩ := by
      simp [streamPoint, framesOf, ← hq]
    have hanswers : 2 * frameCount data ≤ s.env.answersLeft := by
      simp [Env.answersLeft, hq]
      omega
    have hwrite := exec_writeOf_rounds ha hc hne hlen _ hstart hanswers
      (frameAnswered_streamPoint c addr data (frameCount data) rest hd hidle hawait hm ha.2)
    simp only [streamPoint, Nat.sub_self, List.replicate_zero, List.flatten_nil, List.nil_append] at hwrite
    exact hwrite
  case bus =>
    intro c addr data rest q s hv ha hd hesc hok hm hp he hidle hc hne hlen wire frames hx hready
    have hx' : s.env.exchanges = frames.flatMap (busAnswers s c addr) ++ rest := hx
    have hstart : busPoint s c addr data (frameCount data) rest q 0 = ⟨s.env, s.trace, s.allOnesRun⟩ := by
      simp only [busPoint, Nat.sub_zero, Nat.mul_zero, List.drop_zero, if_true]
      rw [← hx', ← hready]
      rfl
    have hanswers : 2 * frameCount data ≤ s.env.answersLeft := by
      simp [Env.answersLeft, hready]
      omega
    have hpos : frameCount data ≠ 0 := by
      have hpos := List.length_pos_iff.2 hne
      rw [frameCount, maxFrame]
      omega
    have hwrite := exec_writeOf_rounds ha hc hne hlen _ hstart hanswers
      (frameAnswered_busPoint c addr data (frameCount data) rest q hv hd hesc hok hidle hm ha.2 hp he)
    simp only [busPoint, Nat.sub_self, framesOf, List.flatMap_nil, List.nil_append, Nat.mul_zero,
      List.replicate_zero, if_neg hpos] at hwrite
    exact hwrite

end Sys2Proof.Machine
end

section
/-! PROOFS. What ends a WRITE before its data does (46_host_ops.md R444): a frame the module refuses, and a disconnect
that comes in while a frame waits for its answer. -/

namespace Sys2Proof.Machine

/-! ## An answer stays (41 R192) -/

theorem rxProcess_async {b : Byte} {s : State} (h : s.rxState = .async) :
    rxProcess b s = (.absorbed, rxAsync b s) := by rw [rxProcess, h]

/-- Only the byte after ESC can be an answer. -/
theorem rxProcess_dataResp {b : Byte} {s : State} (h : s.rxState ≠ .escape) :
    (rxProcess b s).2.dataResp = s.dataResp := by
  have haccept (hd : FrameHeader) (u : State) : (acceptHeader hd u).dataResp = u.dataResp := by
    obtain ⟨_, _, _, _, _, _, he⟩ := pushHeader_frame hd { u with head := hd }
    rw [acceptHeader, he]
  have hdispatch (subtype : Cid) (body : List Byte) (u : State) :
      (asyncDispatch subtype body u).2.dataResp = u.dataResp := by
    obtain ⟨_, _, _, _, _, _, _, he⟩ := eventsOnly_asyncDispatch subtype body u
    rw [he]
  cases hs : s.rxState with
  | idle =>
    rw [rxProcess_idle b hs, rxIdle]
    split <;> rfl
  | escape => exact absurd hs h
  | escapeZ =>
    rw [rxProcess_escapeZ b hs, rxEscapeZ]
    split
    · rfl
    · split
      · exact haccept _ _
      · rfl
  | escapeA =>
    rw [rxProcess_escapeA b hs, rxEscapeA]
    split
    · rfl
    · split
      · split
        · exact hdispatch _ _ _
        · rfl
      · rfl
  | escapeY1 =>
    rw [rxProcess_escapeY1 b hs, rxEscapeY1]
    repeat' split
    all_goals rfl
  | escapeY2 =>
    rw [rxProcess_escapeY2 b hs, rxEscapeY2]
    repeat' split
    all_goals rfl
  | escapeY3 =>
    rw [rxProcess_escapeY3 b hs, rxEscapeY3]
    split
    · rfl
    · split
      · exact haccept _ _
      · rfl
  | async =>
    rw [rxProcess_async hs, rxAsync_of_stored rfl]
    split
    · exact hdispatch _ _ _
    · rfl
  | bulk =>
    rw [rxProcess_bulk b hs, rxBulk]
    obtain ⟨_, _, _, _, _, _, he⟩ := pushByte_frame b s
    rw [he]

/-- The first answer is kept. -/
theorem rxProcess_keeps_answer {b : Byte} {s : State} (h : s.dataResp ≠ .none) :
    (rxProcess b s).2.dataResp = s.dataResp := by
  by_cases hesc : s.rxState = .escape
  · rw [rxProcess_escape b hesc, rxEscape_eq, if_neg (show ¬ (s.dataWait = true ∧ s.dataResp = .none) from
      fun hboth => h hboth.2)]
    simp only [apply_ite State.dataResp, ite_self]
  · exact rxProcess_dataResp hesc

theorem receiveAll_keeps_answer (bs : List Byte) {s : State} (h : s.dataResp ≠ .none) :
    (receiveAll bs s).dataResp ≠ .none := by
  induction bs generalizing s with
  | nil => exact h
  | cons b bs ih => exact ih (by rw [rxProcess_keeps_answer h]; exact h)

/-! ## Bytes that come in while a frame waits (46 R443) -/

/-- While no answer is among the bytes, each is one pass of the wait. -/
theorem runActivity_waits (bs : List Byte) {s : State} {caller : FrameCaller} {rest : List (Option Byte)}
    (ha : s.activity = some (.dataWait caller)) (hm : s.linkMode = .stream) (hu : s.unrecoverable = false)
    (hq : s.env.linkReads = bs.map some ++ rest) (hnone : (receiveAll bs s).dataResp = .none) (n : Nat) :
    runActivity (n + bs.length) s = runActivity n ((receiveAll bs s).withLinkOf (s.afterReads bs rest)) := by
  induction bs generalizing s with
  | nil =>
    have hself : s.afterReads [] rest = s := by
      rw [State.afterReads, show rest = s.env.linkReads from hq.symm]
      rfl
    rw [hself]
    rfl
  | cons b bs ih =>
    have hr : s.dataResp = .none := by
      by_contra h
      exact receiveAll_keeps_answer (b :: bs) h hnone
    generalize hw : s.afterRead (some b) (bs.map some ++ rest) = w
    have hpass : passDataWait caller s = (rxProcess b s).2.withLinkOf w := by
      rw [passDataWait_byte caller hr (codecRecv_stream_script hu hm hq) hu, ← hw]
      exact congrArg Prod.snd (rxProcess_withLinkOf s (s.afterRead (some b) (bs.map some ++ rest)) b)
    have hrun := receiveAll_withLinkOf bs (rxProcess b s).2 w
    rw [List.length_cons, ← Nat.add_assoc, runActivity_succ _ _ _ ha, pass, hpass,
      ih (s := (rxProcess b s).2.withLinkOf w) (by rw [← hw]; exact ha) (by rw [← hw]; exact hm) (by rw [← hw]; exact hu)
        (by rw [← hw]; rfl) (by rw [hrun]; exact hnone), hrun, State.withLinkOf_withLinkOf, ← hw]
    simp [State.afterReads, State.afterRead, receiveAll, State.withLinkOf]

/-! ## The statements -/

section
variable {c : Cid} {addr : Option NetAddr} {data : List Byte} {s : State}

/-- `j` frames accepted, and the next one refused. -/
theorem exec_writeOf_refused {j : Nat} {rest : List (Option Byte)} (ha : s.alive) (hd : lettersDiffer s.cfg)
    (hm : s.linkMode = .stream) (hidle : s.rxState = .idle) (hawait : s.cfg.awaitDataResponse = true)
    (hc : s.conn[c].connected = true) (hj : j < frameCount data)
    (hq : s.env.linkReads = (List.replicate j [some s.cfg.escChar, some s.cfg.introOk]).flatten
      ++ some s.cfg.escChar :: some s.cfg.introFail :: rest) :
    exec (writeOf c addr data) s = .next (s.between ⟨{ s.env with linkReads := rest },
      .read (some s.cfg.introFail) :: .read (some s.cfg.escChar)
        :: (((frameBytes s.cfg c addr (frameAt data j)).map LinkEvent.write).reverse
          ++ (((framesOf j data).flatMap (streamRound s c addr)).reverse ++ s.trace)), s.allOnesRun⟩ .fail false 0 none
      (some (.record [0x08]))) := by
  let p := streamPoint s c addr data j (some s.cfg.escChar :: some s.cfg.introFail :: rest)
  have hstart : p 0 = ⟨s.env, s.trace, s.allOnesRun⟩ := by simp [p, streamPoint, framesOf, ← hq]
  obtain ⟨resp, wait, k, act, r, -, hrun⟩ := runActivity_rounds hc p j
    (frameAnswered_streamPoint c addr data j _ hd hidle hawait hm ha.2)
    (fun i hi => drop_ne_nil_of_lt_frameCount (hi.trans hj))
    s.dataResp s.dataWait s.scratchLen s.activity s.result
  rw [hstart, State.between_self] at hrun
  have hreads : (p j).env.linkReads = some s.cfg.escChar :: some (answerLetter s.cfg false) :: rest := by
    simp [p, streamPoint, answerLetter]
  have hrefused := runActivity_writeNext (addr := addr) hc (frameAnswered_stream hd hidle hawait hm ha.2 hreads)
    (drop_ne_nil_of_lt_frameCount hj)
  have hbudget := budget_writeNext (addr := addr) hc
    (show data ≠ [] from fun hnil => by simp [hnil, frameCount, maxFrame] at hj)
  have hanswers : 2 * (j + 1) ≤ s.env.answersLeft := by
    simp [Env.answersLeft, hq]
    omega
  have hfew : 2 * frameCount data ≤ data.length + 8 := by
    rw [frameCount, maxFrame]
    omega
  rw [exec_writeOf ha]
  exact congrArg Host.Outcome.next (State.resume_eq (k := 4 + 4 * j) (by omega)
    (fun n => by rw [← Nat.add_assoc, hrun, hrefused]; rfl) rfl)

/-- An async record received without answers: its effect on the events, and what a waiting frame still sees. -/
theorem receiveAll_asyncRecord (subtype : Cid) (body : List Byte) (hd : lettersDiffer s.cfg) (hidle : s.rxState = .idle)
    (hw : s.scratch.wf = true) (ha : s.asyncBuf.wf = true) (hn : body.length ≤ 99) :
    let v := receiveAll (asyncHeader s.cfg subtype body.length ++ body) s
    v.rxState = .idle ∧ v.cfg = s.cfg ∧ v.dataResp = s.dataResp ∧ v.dataWait = s.dataWait
      ∧ v.conn = (asyncDispatch subtype body s).2.conn := by
  obtain ⟨hrx, _, _, _, _, _, _, _, hfeed⟩ := feed_asyncRecord subtype body s hd hidle hw ha hn
  obtain ⟨_, _, _, _, _, _, _, hevents⟩ := eventsOnly_asyncDispatch subtype body s
  intro v
  have hv : v = (feed (asyncHeader s.cfg subtype body.length ++ body) s).withLinkOf s := receiveAll_eq_feed _ s
  rw [hv]
  refine ⟨hrx, ?_, ?_, ?_, ?_⟩
  · rw [hfeed, hevents]; rfl
  · rw [hfeed, hevents]; rfl
  · rw [hfeed, hevents]; rfl
  · rw [hfeed]; rfl

theorem runActivity_answer_stream {s : State} {rest : List (Option Byte)} (caller : FrameCaller) (accepted : Bool)
    (n : Nat) (ha : s.activity = some (.dataWait caller)) (hd : lettersDiffer s.cfg) (hidle : s.rxState = .idle)
    (hw : s.dataWait = true) (hr : s.dataResp = .none) (hm : s.linkMode = .stream) (hu : s.unrecoverable = false)
    (hq : s.env.linkReads = [s.cfg.escChar, answerLetter s.cfg accepted].map some ++ rest) :
    runActivity (n + 3) s = runActivity n (frameDone caller (answerCode accepted)
      { s.afterReads [s.cfg.escChar, answerLetter s.cfg accepted] rest with
        scratchLen := 0, dataResp := answerResp accepted }) := by
  let u : State := { s.afterRead (some s.cfg.escChar) (some (answerLetter s.cfg accepted) :: rest) with
    rxState := .escape }
  rw [runActivity_answer caller accepted n ha hd hidle hw hr (codecRecv_stream_script hu hm hq) hu
    (codecRecv_stream_script (s := u) hu hm rfl) hu]
  exact congrArg (fun v => runActivity n (frameDone caller (answerCode accepted) v))
    (State.rxState_eq_idle (s := { s.afterReads [s.cfg.escChar, answerLetter s.cfg accepted] rest with
      scratchLen := 0, dataResp := answerResp accepted }) hidle)

/-- A waiting frame that receives an async record, and then its answer. -/
theorem runActivity_record_answer {subtype : Cid} {body : List Byte} {rest : List (Option Byte)}
    (caller : FrameCaller) (hact : s.activity = some (.dataWait caller)) (hd : lettersDiffer s.cfg)
    (hidle : s.rxState = .idle) (hw : s.dataWait = true) (hr : s.dataResp = .none) (hm : s.linkMode = .stream)
    (hu : s.unrecoverable = false) (hscratch : s.scratch.wf = true) (hbuf : s.asyncBuf.wf = true)
    (hn : body.length ≤ 99)
    (hq : s.env.linkReads = (asyncHeader s.cfg subtype body.length ++ body).map some
      ++ ([s.cfg.escChar, s.cfg.introOk].map some ++ rest)) :
    ∃ v : State, (∀ n, runActivity (n + 3 + (asyncHeader s.cfg subtype body.length ++ body).length) s =
        runActivity n (frameDone caller .ok v))
      ∧ v.conn = (asyncDispatch subtype body s).2.conn ∧ v.env.linkReads = rest
      ∧ v.trace = [.read (some s.cfg.introOk), .read (some s.cfg.escChar)]
        ++ (((asyncHeader s.cfg subtype body.length ++ body).map fun b => LinkEvent.read (some b)).reverse
          ++ s.trace) := by
  obtain ⟨hrx, hcfg, hresp, hwait, hconn⟩ := receiveAll_asyncRecord subtype body hd hidle hscratch hbuf hn
  have hwaits := runActivity_waits _ hact hm hu hq (hresp.trans hr)
  generalize hu' : (receiveAll (asyncHeader s.cfg subtype body.length ++ body) s).withLinkOf
    (s.afterReads (asyncHeader s.cfg subtype body.length ++ body)
      ([s.cfg.escChar, s.cfg.introOk].map some ++ rest)) = u at hwaits
  have hcfg' : u.cfg = s.cfg := by rw [← hu']; exact hcfg
  have hanswer := fun n => runActivity_answer_stream (s := u) (rest := rest) caller true n (by rw [← hu']; exact hact)
    (by rw [hcfg']; exact hd) (by rw [← hu']; exact hrx) (by rw [← hu']; exact hwait.trans hw)
    (by rw [← hu']; exact hresp.trans hr) (by rw [← hu']; exact hm) (by rw [← hu']; exact hu)
    (by rw [hcfg', ← hu']; rfl)
  rw [hcfg'] at hanswer
  refine ⟨_, fun n => (hwaits (n + 3)).trans (hanswer n), ?_, rfl, ?_⟩
  · rw [← hu']
    exact hconn
  · rw [← hu']
    rfl

/-- `j + 1` frames accepted, and a record that disconnects the CID before the last of these answers: nothing more is
sent. -/
theorem exec_writeOf_disconnected {j : Nat} {subtype : Cid} {body : List Byte} {rest : List (Option Byte)} (ha : s.alive)
    (hinv : s.Inv) (hd : lettersDiffer s.cfg) (hm : s.linkMode = .stream) (hidle : s.rxState = .idle)
    (hc : s.conn[c].connected = true) (hj : j + 1 < frameCount data) (hn : body.length ≤ 99)
    (hgone : (asyncDispatch subtype body s).2.conn[c].connected = false)
    (hq : s.env.linkReads = (List.replicate j [some s.cfg.escChar, some s.cfg.introOk]).flatten
      ++ ((asyncHeader s.cfg subtype body.length ++ body).map some
        ++ ([s.cfg.escChar, s.cfg.introOk].map some ++ rest))) :
    ∃ t : State, exec (writeOf c addr data) s = .next t ∧ t.result = some (.record [0x04]) ∧ t.activity = none
      ∧ t.dataWait = false ∧ t.env.linkReads = rest ∧ t.conn = (asyncDispatch subtype body s).2.conn
      ∧ t.trace = [.read (some s.cfg.introOk), .read (some s.cfg.escChar)]
        ++ (((asyncHeader s.cfg subtype body.length ++ body).map fun b => LinkEvent.read (some b)).reverse
          ++ (((frameBytes s.cfg c addr (frameAt data j)).map LinkEvent.write).reverse
            ++ (((framesOf j data).flatMap (streamRound s c addr)).reverse ++ s.trace))) := by
  have hawait := Config.awaits s.cfg hinv.config
  let p := streamPoint s c addr data j ((asyncHeader s.cfg subtype body.length ++ body).map some
    ++ ([s.cfg.escChar, s.cfg.introOk].map some ++ rest))
  have hstart : p 0 = ⟨s.env, s.trace, s.allOnesRun⟩ := by
    simp only [p, streamPoint]
    rw [Nat.sub_zero, ← hq]
    rfl
  have hread : (p j).env.linkReads = (asyncHeader s.cfg subtype body.length ++ body).map some
    ++ ([s.cfg.escChar, s.cfg.introOk].map some ++ rest) := by simp [p, streamPoint]
  obtain ⟨resp, wait, k, act, r, -, hrun⟩ := runActivity_rounds hc p j
    (frameAnswered_streamPoint c addr data j _ hd hidle hawait hm ha.2)
    (fun i hi => drop_ne_nil_of_lt_frameCount (by omega))
    s.dataResp s.dataWait s.scratchLen s.activity s.result
  rw [hstart, State.between_self] at hrun
  let caller := FrameCaller.write c addr (data.drop (maxFrame * (j + 1))) j
  let tx := frameBytes s.cfg c addr (frameAt data j)
  let begun := (s.between (p j) resp wait k act r).frameBegun tx caller
  let sent := begun.frameSent caller (p j).env ((tx.map LinkEvent.write).reverse ++ (p j).trace) s.allOnesRun
  have hbegun : writeNext c addr (data.drop (maxFrame * j)) j (s.between (p j) resp wait k act r) = begun := by
    rw [writeNext_connected (s := s.between (p j) resp wait k act r) (drop_ne_nil_of_lt_frameCount (by omega)) hc,
      beginFrame_begun, drop_maxFrame]
    rfl
  have hsend (n : Nat) : runActivity (n + 1) begun = runActivity n sent :=
    congrArg (runActivity n) ((passSend_stream tx _ begun hm ha.2).trans
      (sendDone_frame (s := begun) caller _ _ _ hawait))
  obtain ⟨v, hanswer, hconn, hrest, htrace⟩ := runActivity_record_answer (s := sent) caller rfl hd hidle rfl rfl hm ha.2
    hinv.scratch_form hinv.async_form hn hread
  have hevents : (asyncDispatch subtype body sent).2.conn = (asyncDispatch subtype body s).2.conn :=
    show (asyncDispatch subtype body (sent.withEventsOf s)).2.conn = _ by
      rw [asyncDispatch_withEventsOf sent s rfl]
      rfl
  have hend : frameDone caller .ok v = { v with dataWait := false }.finish (.record [0x04]) :=
    writeNext_not_connected (s := { v with dataWait := false }) (drop_ne_nil_of_lt_frameCount hj)
      (by rw [show ({ v with dataWait := false } : State).conn = (asyncDispatch subtype body s).2.conn from
        hconn.trans hevents]; exact hgone)
  have hbudget := budget_writeNext (addr := addr) hc
    (show data ≠ [] from fun hnil => by simp [hnil, frameCount, maxFrame] at hj)
  have hanswers : 2 * (j + 1) + (asyncHeader s.cfg subtype body.length ++ body).length ≤ s.env.answersLeft := by
    simp [Env.answersLeft, hq]
    omega
  have hfew : 2 * frameCount data ≤ data.length + 8 := by
    rw [frameCount, maxFrame]
    omega
  refine ⟨{ v with dataWait := false }.finish (.record [0x04]), (exec_writeOf ha c addr data).trans (congrArg Host.Outcome.next (State.resume_eq
    (k := 3 + (asyncHeader s.cfg subtype body.length ++ body).length + 1 + 4 * j) (by omega) (fun n => ?_) rfl)),
    rfl, rfl, rfl, hrest, hconn.trans hevents, htrace⟩
  rw [← Nat.add_assoc, hrun, hbegun, ← Nat.add_assoc, hsend, ← Nat.add_assoc, ← hend]
  exact hanswer n

end

/-! ## What has been written -/

/-- The writes of the frames up to the one that ended the WRITE. -/
theorem filter_lastFrame (s : State) (c : Cid) (addr : Option NetAddr) (data : List Byte) (j : Nat)
    (w : LinkEvent → Bool) (hw : ∀ b, w (.write b) = true) (hr : ∀ a, w (.read a) = false) (reads : List Byte) :
    ((reads.map fun b => LinkEvent.read (some b)) ++ (((frameBytes s.cfg c addr (frameAt data j)).map
        LinkEvent.write).reverse ++ (((framesOf j data).flatMap (streamRound s c addr)).reverse ++ s.trace))).filter w =
      (((framesOf (j + 1) data).flatMap (frameBytes s.cfg c addr)).map LinkEvent.write).reverse
        ++ s.trace.filter w := by
  have hreads : (reads.map fun b => LinkEvent.read (some b)).filter w = [] := by
    simp [List.filter_map, Function.comp_def, hr]
  have hwrites (bs : List Byte) : ((bs.map LinkEvent.write).reverse).filter w = (bs.map LinkEvent.write).reverse := by
    simp [List.filter_map, Function.comp_def, hw, List.filter_reverse]
  rw [List.filter_append, hreads, List.nil_append, List.filter_append, hwrites, filter_streamRounds s c addr _ _ w hw hr,
    framesOf_succ, List.flatMap_append, List.map_append, List.reverse_append, List.append_assoc, List.flatMap_singleton]

/-- Settles O59: after the accepted frames, the refused one or the disconnect is the last. -/
theorem rejectedFrameEndsTheWrite : Obligations.RejectedFrameEndsTheWrite := by
  refine ⟨?refused, ?disconnected⟩
  case refused =>
    intro c addr data j rest s ha hd hm hidle hawait hc _ hj hq
    exact ⟨_, exec_writeOf_refused (addr := addr) ha hd hm hidle hawait hc hj hq, rfl, rfl, rfl, rfl,
      filter_lastFrame s c addr data j _ (fun _ => rfl) (fun _ => rfl) [s.cfg.introFail, s.cfg.escChar]⟩
  case disconnected =>
    intro c addr data j subtype body rest s hinv ha hd hm hidle hc _ hj hn hgone hq
    obtain ⟨t, hexec, hresult, hact, hwait, hrest, hconn, htrace⟩ := exec_writeOf_disconnected (addr := addr)
      (subtype := subtype) (body := body) (rest := rest) ha hinv hd hm hidle hc hj hn hgone
      (by rw [hq]; simp [asyncHeader, decChar])
    refine ⟨t, hexec, hresult, hact, hwait, hrest, hconn, ?_⟩
    refine Eq.trans ?_ (filter_lastFrame s c addr data j _ (fun _ => rfl) (fun _ => rfl)
      ([s.cfg.introOk, s.cfg.escChar] ++ (asyncHeader s.cfg subtype body.length ++ body).reverse))
    rw [htrace]
    simp

end Sys2Proof.Machine
end

section
/-! PROOFS. POP_HEADER field by field (42_ring_buffer.md R247): the bytes of a record read as the header of 20_memory.md
R73. -/

namespace Sys2Proof.Machine

theorem recordUdp_eq (b : Byte) : recordUdp b = decide (128 ≤ b.toNat) :=
  BitVec.msb_eq_decide b

theorem halfOf_eq_ofNat (lo hi : Byte) : halfOf lo hi = BitVec.ofNat 16 (lo.toNat + 256 * hi.toNat) := by
  have hlo := lo.isLt
  have hhi := hi.isLt
  apply BitVec.eq_of_toNat_eq
  rw [halfOf, BitVec.toNat_append, ← Nat.shiftLeft_add_eq_or_of_lt hlo, Nat.shiftLeft_eq, BitVec.toNat_ofNat]
  omega

theorem cid_eq_mod (b : Byte) : Fin.ofNat 16 b.toNat = Fin.ofNat 16 (b.toNat % 16) :=
  Fin.ext (Nat.mod_mod _ _).symm

/-- The header of the record at `j`, byte by byte. -/
theorem recordAt_eq (ring : Memory) (j : Nat) :
    let udp := decide (128 ≤ (ring.read (j + 0)).toNat)
    recordAt ring j = {
      cid := Fin.ofNat 16 ((ring.read (j + 0)).toNat % 16)
      length := BitVec.ofNat 16 ((ring.read (j + 1)).toNat + 256 * (ring.read (j + 2)).toNat)
      udp := udp
      ip := if udp = true then ⟨ring.read (j + 3), ring.read (j + 4), ring.read (j + 5), ring.read (j + 6)⟩
        else ⟨0, 0, 0, 0⟩
      port := if udp = true then BitVec.ofNat 16 ((ring.read (j + 7)).toNat + 256 * (ring.read (j + 8)).toNat)
        else 0 } := by
  intro udp
  have hudp : recordUdp (ring.read j) = udp := recordUdp_eq _
  rw [recordAt, hudp, Memory.readN_eq_map]
  cases hu : udp with
  | true =>
    rw [hu] at hudp
    simp [deserialize, headerSize, hdrMax, List.range_succ, hudp, ← halfOf_eq_ofNat]
    exact cid_eq_mod _
  | false =>
    rw [hu] at hudp
    simp [deserialize, headerSize, hdrPlain, List.range_succ, hudp, ← halfOf_eq_ofNat, IPv4.zero]
    exact cid_eq_mod _

theorem recordStart_eq (cfg : Config) (i : Nat) : recordStart cfg i = if cfg.ringCap - i < 9 then 0 else i := by
  rw [recordStart, skipNeeded, hdrMax]
  simp only [decide_eq_true_eq]

/-- Settles O29. -/
theorem popHeaderReadsTheRecord : Obligations.PopHeaderReadsTheRecord := by
  intro s i at_ udp h
  have hpop : popHeader s = { s with tail := h, tailIdx := (i + if udp = true then 9 else 3) % s.cfg.ringCap } := by
    rw [popHeader_eq_recordAt, recordStart_eq, recordAt_udp, recordUdp_eq]
    rw [recordAt_eq]
    rfl
  have hexec : exec .popHeader s = .next ((popHeader s).respond (.header (popHeader s).tail)) := rfl
  rw [hexec, hpop]
  rfl

end Sys2Proof.Machine
end

section
/-! PROOFS. The structure of the ring (42_ring_buffer.md R242) under every move of its cursors: what takes payload or
drops it, what a record and a payload byte pushed behind the others add. -/

namespace Sys2Proof.Machine

/-! ## What the structure reads -/

/-- The two states agree in everything that the ring's structure is about. -/
structure ringSame (s t : State) : Prop where
  cfg : t.cfg = s.cfg
  ring : t.ring = s.ring
  headIdx : t.headIdx = s.headIdx
  tailIdx : t.tailIdx = s.tailIdx
  length : t.tail.length = s.tail.length
  missing : t.missing = s.missing

theorem ringSame.ringOk {s t : State} (h : ringSame s t) (hr : s.RingOk) : t.RingOk := by
  have hused : t.used = s.used := by rw [State.used, State.used, h.headIdx, h.tailIdx, h.cfg]
  rw [State.RingOk, h.length, h.cfg, h.ring, h.tailIdx, h.missing, hused]
  exact hr

theorem State.missing_of_not_bulk {s : State} (h : s.rxState ≠ .bulk) : s.missing = 0 := if_neg h

theorem State.missing_of_bulk {s : State} (h : s.rxState = .bulk) : s.missing = s.head.length.toNat := if_pos h

/-! ## Payload taken or dropped (42 R249, R252) -/

theorem State.taken_length {s : State} (hl : 0 < s.tail.length.toNat) :
    s.taken.tail.length.toNat = s.tail.length.toNat - 1 := by
  have hlt := s.tail.length.isLt
  simp only [State.taken]
  bv_omega

theorem State.Inv.used_taken {s : State} (h : s.Inv) (hu : 0 < s.used) : s.taken.used = s.used - 1 :=
  h.used_moveTail 1 hu _

theorem State.RingOk.taken {s : State} (hr : s.RingOk) (h : s.Inv) (hl : 0 < s.tail.length.toNat) (hu : 0 < s.used) :
    s.taken.RingOk := by
  have hlen := State.taken_length hl
  have hused := h.used_taken hu
  have hmod : (s.taken.tailIdx + s.taken.tail.length.toNat) % s.cfg.ringCap =
      (s.tailIdx + s.tail.length.toNat) % s.cfg.ringCap := by
    rw [hlen, show s.taken.tailIdx = (s.tailIdx + 1) % s.cfg.ringCap from rfl, Nat.mod_add_mod]
    congr 1
    omega
  obtain ⟨hle, hrecords⟩ | ⟨hlt, heq⟩ := hr
  · refine .inl ⟨by omega, ?_⟩
    change Records s.cfg s.ring s.missing ((s.taken.tailIdx + s.taken.tail.length.toNat) % s.cfg.ringCap) _
    rw [hmod, hused, hlen, show s.used - 1 - (s.tail.length.toNat - 1) = s.used - s.tail.length.toNat by omega]
    exact hrecords
  · refine .inr ⟨by omega, ?_⟩
    rw [hlen, hused, show s.taken.missing = s.missing from rfl]
    omega

/-- DropUnit on a payload byte: the byte is taken, and its CID gets the error flag. -/
theorem dropUnit_payload {s : State} (hl : s.tail.length ≠ 0) : dropUnit s = { s.taken with
    conn := s.conn.set s.tail.cid { s.conn[s.tail.cid] with error := true }
    log := .ringDrop :: s.log } := if_pos hl

theorem dropUnit_header {s : State} (hl : s.tail.length = 0) : dropUnit s = popHeader s := if_neg (not_not.2 hl)

theorem State.RingOk.dropUnit {s : State} (hr : s.RingOk) (h : s.Inv) (hu : 0 < s.used) :
    (dropUnit s).RingOk ∧ (dropUnit s).used < s.used := by
  by_cases hl : s.tail.length = 0
  · rw [dropUnit_header hl]
    exact hr.popHeader h hl hu
  · have hpos : 0 < s.tail.length.toNat := by
      rw [← length_toNat_eq_zero] at hl
      omega
    rw [dropUnit_payload hl]
    refine ⟨ringSame.ringOk (s := s.taken) ⟨rfl, rfl, rfl, rfl, rfl, rfl⟩ (hr.taken h hpos hu), ?_⟩
    have hused := h.used_taken hu
    change s.taken.used < s.used
    omega

/-! ## DROP_OLDEST (42 R251) -/

/-- The loop of DROP_OLDEST has more to do. -/
def State.mustDrop (n : Nat) (s : State) : Prop := s.free < n ∧ 0 < s.used

theorem dropLoop_done {n : Nat} {s : State} (k : Nat) (h : ¬ s.mustDrop n) : dropLoop n k s = s := by
  cases k with
  | zero => rfl
  | succ k => exact if_neg h

theorem dropLoop_succ {n : Nat} {s : State} (k : Nat) (h : s.mustDrop n) :
    dropLoop n (k + 1) s = dropLoop n k (dropUnit s) := if_pos h

theorem State.RingOk.dropLoop {s : State} (n k : Nat) (hr : s.RingOk) (h : s.Inv) : (dropLoop n k s).RingOk := by
  induction k generalizing s with
  | zero => exact hr
  | succ k ih =>
    by_cases hgo : s.mustDrop n
    · rw [dropLoop_succ k hgo]
      exact ih (hr.dropUnit h hgo.2).1 h.dropUnit
    · rw [dropLoop_done _ hgo]
      exact hr

/-- As many turns as cells are occupied are enough, and more do nothing (log 11). -/
theorem dropLoop_of_used_le (n k : Nat) : ∀ {s : State}, s.Inv → s.RingOk → s.used ≤ k →
    ¬ (dropLoop n k s).mustDrop n ∧ dropLoop n (k + 1) s = dropLoop n k s := by
  induction k with
  | zero =>
    intro s _ _ hk
    have hdone : ¬ s.mustDrop n := fun hgo => absurd hgo.2 (by omega)
    exact ⟨hdone, dropLoop_done 1 hdone⟩
  | succ k ih =>
    intro s h hr hk
    by_cases hgo : s.mustDrop n
    · obtain ⟨hr', hless⟩ := hr.dropUnit h hgo.2
      rw [dropLoop_succ _ hgo, dropLoop_succ _ hgo]
      exact ih h.dropUnit hr' (by omega)
    · rw [dropLoop_done _ hgo, dropLoop_done _ hgo]
      exact ⟨hgo, rfl⟩

theorem dropOldest_unit {n : Nat} {s : State} (h : s.Inv) (hr : s.RingOk) (hgo : s.mustDrop n) :
    dropOldest n s = dropOldest n (dropUnit s) := by
  obtain ⟨hr', hless⟩ := hr.dropUnit h hgo.2
  have hlt := h.used_lt
  have hcfg : (dropUnit s).cfg = s.cfg := by
    obtain ⟨_, _, _, _, he⟩ := dropOnly_dropUnit s
    rw [he]
  obtain ⟨k, hk⟩ : ∃ k, s.cfg.ringCap = k + 1 := ⟨s.cfg.ringCap - 1, by omega⟩
  rw [dropOldest, dropOldest, hcfg, hk, dropLoop_succ k hgo, (dropLoop_of_used_le n k h.dropUnit hr' (by omega)).2]

theorem State.RingOk.dropOldest {s : State} (hr : s.RingOk) (h : s.Inv) (n : Nat) : (dropOldest n s).RingOk :=
  hr.dropLoop n _ h

/-- Up to 17 cells are free on return: with nothing buffered all but one of at least 32 are. -/
theorem dropOldest_free {n : Nat} {s : State} (h : s.Inv) (hr : s.RingOk) (hn : n ≤ 17) : n ≤ (dropOldest n s).free := by
  have hdone := (dropLoop_of_used_le n _ h hr h.used_lt.le).1
  have hcap := (h.dropOldest n).cap
  rw [State.mustDrop, ← dropOldest] at hdone
  by_contra hless
  have hused : (Machine.dropOldest n s).used = 0 := by omega
  rw [State.free, hused] at hless
  omega

theorem exec_dropOldest (n : Byte) (s : State) :
    exec (.dropOldest n) s = .next ((dropOldest n.toNat s).respond .none) := rfl

/-- DROP_OLDEST neither reads nor writes the last result. -/
theorem dropOldest_respond (n : Nat) (r : Response) (s : State) :
    dropOldest n (s.respond r) = (dropOldest n s).respond r := by
  obtain ⟨_, _, _, _, hdrop⟩ := dropOnly_dropOldest n s
  have hlink := dropLoop_withLinkOf s (s.respond r) n s.cfg.ringCap
  exact hlink.trans (by rw [← dropOldest, hdrop]; rfl)

/-- Each unit drops at most one entry's error flag to 1. -/
theorem dropUnit_conn (s : State) (c : Cid) :
    { (dropUnit s).conn[c] with error := s.conn[c].error } = s.conn[c]
      ∧ (s.conn[c].error = true → (dropUnit s).conn[c].error = true) := by
  by_cases hl : s.tail.length = 0
  · rw [dropUnit_header hl]
    exact ⟨rfl, id⟩
  · rw [dropUnit_payload hl]
    by_cases hc : s.tail.cid = c
    · subst hc
      simp
    · have hother : (s.conn.set s.tail.cid { s.conn[s.tail.cid] with error := true })[c] = s.conn[c] :=
        Vector.getElem_set_ne _ _ (fun h => hc (Fin.ext h))
      exact ⟨by rw [hother], fun he => by rw [hother]; exact he⟩

theorem dropLoop_conn (n k : Nat) (s : State) (c : Cid) :
    { (dropLoop n k s).conn[c] with error := s.conn[c].error } = s.conn[c]
      ∧ (s.conn[c].error = true → (dropLoop n k s).conn[c].error = true) := by
  induction k generalizing s with
  | zero => exact ⟨rfl, id⟩
  | succ k ih =>
    by_cases hgo : s.mustDrop n
    · obtain ⟨hrest, herror⟩ := ih (dropUnit s)
      obtain ⟨hunit, hunitError⟩ := dropUnit_conn s c
      rw [dropLoop_succ k hgo]
      refine ⟨?_, fun he => herror (hunitError he)⟩
      rw [← hunit]
      exact congrArg (fun e : Conn => { e with error := s.conn[c].error }) hrest
    · rw [dropLoop_done _ hgo]
      exact ⟨rfl, id⟩

/-- Settles O31: one unit at a time by the loop's first turn; the rest is what the loop ends with. -/
theorem dropOldestMakesRoom : Obligations.DropOldestMakesRoom := by
  refine ⟨fun n s h hr => ?_, fun n s h hr hn => ?_⟩
  · by_cases hgo : s.mustDrop n.toNat
    · rw [if_pos (show s.free < n.toNat ∧ 0 < s.used from hgo), exec_dropOldest, dropOldest_unit h hr hgo]
      by_cases hl : s.tail.length = 0
      · have hz := (length_toNat_eq_zero _).2 hl
        have hafter : after .popHeader s = (popHeader s).respond (.header (popHeader s).tail) := rfl
        rw [if_neg (by omega), dropUnit_header hl, hafter, exec_dropOldest, dropOldest_respond]
        rfl
      · have hpos : 0 < s.tail.length.toNat := by
          rw [← length_toNat_eq_zero] at hl
          omega
        rw [if_pos hpos, dropUnit_payload hl, exec_dropOldest]
        rfl
    · rw [if_neg (show ¬ (s.free < n.toNat ∧ 0 < s.used) from hgo), exec_dropOldest, dropOldest, dropLoop_done _ hgo]
      rfl
  · refine ⟨(dropOldest n.toNat s).respond .none, exec_dropOldest n s, dropOldest_free h hr hn,
      ringSame.ringOk (s := dropOldest n.toNat s) ⟨rfl, rfl, rfl, rfl, rfl, rfl⟩ (hr.dropOldest h _), ?_,
      dropLoop_conn n.toNat _ s⟩
    obtain ⟨_, _, _, _, hdrop⟩ := dropOnly_dropOldest n.toNat s
    rw [hdrop]
    rfl

end Sys2Proof.Machine
end

section
/-! PROOFS. What is pushed behind the records of the ring (42_ring_buffer.md R242, R244 to R246): the records do not
change while the cells they occupy do not, and a header record or a payload byte behind them makes one run of records
again. -/

namespace Sys2Proof.Machine

/-! ## Records and the cells they occupy -/

/-- The two storages agree on the `u` cells from the index `i`. -/
def agreesOn (cfg : Config) (i u : Nat) (ring ring' : Memory) : Prop :=
  ∀ k < u, ring'.read ((i + k) % cfg.ringCap) = ring.read ((i + k) % cfg.ringCap)

theorem headerSize_pos (udp : Bool) : 0 < headerSize udp := by cases udp <;> decide

theorem recordAt_congr {ring ring' : Memory} {j : Nat}
    (h : ∀ k < headerSize (recordAt ring j).udp, ring'.read (j + k) = ring.read (j + k)) :
    recordAt ring' j = recordAt ring j := by
  rw [recordAt_udp] at h
  have hfirst : ring'.read j = ring.read j := h 0 (headerSize_pos _)
  rw [recordAt, recordAt, hfirst, Memory.readN_eq_map, Memory.readN_eq_map]
  congr 1
  exact List.map_congr_left fun k hk => h k (List.mem_range.1 hk)

section
variable {cfg : Config} {ring ring' : Memory} {missing i u : Nat}

/-- Agreement on the cells of a run of records is agreement on its first record's cells. -/
theorem agreesOn.recordAt (h : agreesOn cfg i u ring ring') (hc : 32 ≤ cfg.ringCap) (hi : i < cfg.ringCap)
    (hfits : deadCells cfg i + headerSize (recordAt ring (recordStart cfg i)).udp ≤ u) :
    Machine.recordAt ring' (recordStart cfg i) = Machine.recordAt ring (recordStart cfg i) := by
  have hstart := recordStart_fits cfg i (Machine.recordAt ring (recordStart cfg i)).udp hc hi
  refine recordAt_congr fun k hk => ?_
  have hcell := h (deadCells cfg i + k) (by omega)
  rw [add_deadCells_mod cfg i k hi, Nat.mod_eq_of_lt (by omega)] at hcell
  exact hcell

theorem agreesOn.rest (h : agreesOn cfg i u ring ring') (hi : i < cfg.ringCap) (n : Nat) (hn : deadCells cfg i + n ≤ u) :
    agreesOn cfg ((recordStart cfg i + n) % cfg.ringCap) (u - (deadCells cfg i + n)) ring ring' := by
  intro k hk
  have hcell := h (deadCells cfg i + n + k) (by omega)
  rw [← Nat.add_assoc, ← Nat.mod_add_mod, add_deadCells_mod cfg i n hi] at hcell
  exact hcell

/-- Records are what their cells are. -/
theorem Records.congr (hr : Records cfg ring missing i u) (hc : 32 ≤ cfg.ringCap) (hi : i < cfg.ringCap)
    (h : agreesOn cfg i u ring ring') : Records cfg ring' missing i u := by
  induction hr with
  | none i whole => exact .none i whole
  | whole i u head at_start fits rest ih =>
    subst at_start
    have hsame := h.recordAt hc hi (by omega)
    refine .whole i u _ rfl (by rw [hsame]; exact fits) ?_
    rw [hsame]
    have hrest := h.rest hi (headerSize (Machine.recordAt ring (recordStart cfg i)).udp
      + (Machine.recordAt ring (recordStart cfg i)).length.toNat) (by omega)
    rw [← Nat.add_assoc, ← Nat.add_assoc] at hrest
    exact ih (Nat.mod_lt _ (by omega)) hrest
  | partly i u head at_start fits in_flight arrived =>
    subst at_start
    have hsame := h.recordAt hc hi fits
    exact .partly i u _ rfl (by rw [hsame]; exact fits) in_flight (by rw [hsame]; exact arrived)

/-- A run of records with nothing in flight, and a header record behind it whose payload has not arrived. -/
theorem Records.push_record (hr : Records cfg ring missing i u) (hnone : missing = 0) (hc : 32 ≤ cfg.ringCap)
    (hi : i < cfg.ringCap) {e : Nat} (he : (i + u) % cfg.ringCap = e) {h : FrameHeader}
    (hrec : Machine.recordAt ring (recordStart cfg e) = h) :
    Records cfg ring h.length.toNat i (u + (deadCells cfg e + headerSize h.udp)) := by
  induction hr with
  | none i whole =>
    rw [Nat.add_zero, Nat.mod_eq_of_lt hi] at he
    subst he
    by_cases hlen : h.length.toNat = 0
    · refine .whole i _ h hrec.symm (by omega) ?_
      rw [hlen, Nat.add_zero, Nat.zero_add, Nat.add_zero, Nat.sub_self]
      exact .none _ rfl
    · exact .partly i _ h hrec.symm (by omega) (by omega) (by omega)
  | whole i u head at_start fits rest ih =>
    have hnext := ih (Nat.mod_lt _ (by omega)) (by
      rw [← he, Nat.mod_add_mod, Nat.add_assoc, Nat.add_assoc, ← add_deadCells_mod cfg i _ hi]
      congr 1
      omega)
    refine .whole i _ head at_start (by omega) ?_
    rw [show u + (deadCells cfg e + headerSize h.udp) - (deadCells cfg i + headerSize head.udp + head.length.toNat) =
      u - (deadCells cfg i + headerSize head.udp + head.length.toNat) + (deadCells cfg e + headerSize h.udp) by omega]
    exact hnext
  | partly i u head at_start fits in_flight arrived => omega

/-- A payload byte of the frame in flight behind a run of records. -/
theorem Records.push_byte (hr : Records cfg ring missing i u) (hsome : 0 < missing) :
    Records cfg ring (missing - 1) i (u + 1) := by
  induction hr with
  | none i whole => omega
  | whole i u head at_start fits rest ih =>
    refine .whole i _ head at_start (by omega) ?_
    rw [show u + 1 - (deadCells cfg i + headerSize head.udp + head.length.toNat) =
      u - (deadCells cfg i + headerSize head.udp + head.length.toNat) + 1 by omega]
    exact ih
  | partly i u head at_start fits in_flight arrived =>
    by_cases hlast : missing = 1
    · subst hlast
      refine .whole i _ head at_start (by omega) ?_
      rw [show u + 1 - (deadCells cfg i + headerSize head.udp + head.length.toNat) = 0 by omega]
      exact .none _ rfl
    · exact .partly i _ head at_start (by omega) (by omega) (by omega)

/-- Cells behind a run of cells are none of them. -/
theorem behind_ne {c i k u d : Nat} (hk : k < u) (hd : u + d < c) : (i + k) % c ≠ (i + (u + d)) % c := by
  intro he
  have hmod : k ≡ u + d [MOD c] := Nat.ModEq.add_left_cancel' i he
  have := Nat.ModEq.eq_of_lt_of_lt hmod (by omega) hd
  omega

end

/-! ## Pushes behind the occupied cells (42 R244, R246) -/

theorem State.Inv.head_eq {s : State} (h : s.Inv) : (s.tailIdx + s.used) % s.cfg.ringCap = s.headIdx := by
  have hhead := h.head_lt
  have htail := h.tail_lt
  rw [State.used, Nat.add_mod_mod, show s.tailIdx + (s.headIdx + s.cfg.ringCap - s.tailIdx) =
    s.headIdx + s.cfg.ringCap by omega, Nat.add_mod_right, Nat.mod_eq_of_lt hhead]

/-- The cells behind the occupied ones start at the writing cursor, wherever in them one starts. -/
theorem State.Inv.head_eq_from {s : State} (h : s.Inv) {n : Nat} (hn : n ≤ s.used) :
    ((s.tailIdx + n) % s.cfg.ringCap + (s.used - n)) % s.cfg.ringCap = s.headIdx := by
  rw [Nat.mod_add_mod, Nat.add_assoc, show n + (s.used - n) = s.used by omega, h.head_eq]

theorem recordAt_of_serialize {ring : Memory} {j : Nat} {h : FrameHeader} (hbare : plainIsBare h)
    (hrec : ring.readN j (headerSize h.udp) = serialize h) : recordAt ring j = h := by
  have hbyte0 : ring.read j = headerByte0 h := by
    obtain ⟨rest, hserial⟩ := serialize_head h
    obtain ⟨n, hn⟩ : ∃ n, headerSize h.udp = n + 1 := by cases h.udp <;> exact ⟨_, rfl⟩
    rw [hserial, hn, Memory.readN] at hrec
    exact (List.cons.inj hrec).1
  rw [recordAt, hbyte0, (headerByte0_fields h).2, hrec, deserialize_serialize h hbare]

/-- PUSH_HEADER's writes keep the structure of the ring when there is room and no frame is in flight; the new frame is
in flight with its whole payload. -/
theorem State.RingOk.push_header {s t : State} (hr : s.RingOk) (hinv : s.Inv) (hnone : s.missing = 0) {h : FrameHeader}
    (hbare : plainIsBare h) (hroom : deadCells s.cfg s.headIdx + headerSize h.udp ≤ s.free)
    (hcfg : t.cfg = s.cfg) (hring : t.ring = s.ring.writeList (recordStart s.cfg s.headIdx) (serialize h))
    (hhead : t.headIdx = (recordStart s.cfg s.headIdx + headerSize h.udp) % s.cfg.ringCap)
    (htail : t.tailIdx = s.tailIdx) (hlen : t.tail.length = s.tail.length) (hmissing : t.missing = h.length.toNat) :
    t.RingOk := by
  have hcap := hinv.cap
  have hlt := hinv.used_lt
  rw [State.free] at hroom
  have hused : t.used = s.used + (deadCells s.cfg s.headIdx + headerSize h.udp) := by
    rw [State.used, hhead, htail, hcfg, ← add_deadCells_mod s.cfg s.headIdx _ hinv.head_lt]
    exact cursor_distance_push hinv.head_lt hinv.tail_lt (by rw [← State.used]; omega)
  obtain ⟨hle, hrecords⟩ | ⟨hgt, heq⟩ := hr
  · have hstart := hinv.head_eq_from hle
    have hfits := recordStart_fits s.cfg s.headIdx h.udp hcap hinv.head_lt
    have hagree : agreesOn s.cfg ((s.tailIdx + s.tail.length.toNat) % s.cfg.ringCap)
        (s.used - s.tail.length.toNat) s.ring t.ring := by
      intro k hk
      rw [hring, Memory.read_writeList _ _ _ _ hinv.ring_form]
      refine if_neg fun hin => ?_
      obtain ⟨hlow, hhigh⟩ := hin
      rw [length_serialize] at hhigh
      obtain ⟨m, hm⟩ := Nat.exists_eq_add_of_le hlow
      refine behind_ne (c := s.cfg.ringCap) (i := (s.tailIdx + s.tail.length.toNat) % s.cfg.ringCap) (k := k)
        (u := s.used - s.tail.length.toNat) (d := deadCells s.cfg s.headIdx + m) hk (by omega) ?_
      rw [← Nat.add_assoc, ← Nat.mod_add_mod _ _ (deadCells s.cfg s.headIdx + m), hstart,
        add_deadCells_mod s.cfg s.headIdx m hinv.head_lt, hm, Nat.mod_eq_of_lt (by omega)]
    have hrecord : recordAt t.ring (recordStart s.cfg s.headIdx) = h := by
      refine recordAt_of_serialize hbare ?_
      rw [hring, ← length_serialize]
      exact Memory.readN_writeList _ _ _ hinv.ring_form
    have hpush := (hrecords.congr hcap (Nat.mod_lt _ (by omega)) hagree).push_record hnone hcap
      (Nat.mod_lt _ (by omega)) hstart hrecord
    refine .inl ⟨by rw [hlen]; omega, ?_⟩
    rw [hcfg, hmissing, htail, hlen, hused, Nat.sub_add_comm hle]
    exact hpush
  · omega

/-- PUSH_BYTE's write keeps the structure of the ring when there is room and a frame is in flight; one byte less of it is
missing. -/
theorem State.RingOk.push_byte {s t : State} (hr : s.RingOk) (hinv : s.Inv) (hsome : 0 < s.missing) {b : Byte}
    (hroom : 1 ≤ s.free) (hcfg : t.cfg = s.cfg) (hring : t.ring = s.ring.write s.headIdx b)
    (hhead : t.headIdx = (s.headIdx + 1) % s.cfg.ringCap) (htail : t.tailIdx = s.tailIdx)
    (hlen : t.tail.length = s.tail.length) (hmissing : t.missing = s.missing - 1) : t.RingOk := by
  have hcap := hinv.cap
  have hlt := hinv.used_lt
  rw [State.free] at hroom
  have hused : t.used = s.used + 1 := by
    rw [State.used, hhead, htail, hcfg]
    exact cursor_distance_push hinv.head_lt hinv.tail_lt (by rw [← State.used]; omega)
  obtain ⟨hle, hrecords⟩ | ⟨hgt, heq⟩ := hr
  · have hstart := hinv.head_eq_from hle
    have hagree : agreesOn s.cfg ((s.tailIdx + s.tail.length.toNat) % s.cfg.ringCap)
        (s.used - s.tail.length.toNat) s.ring t.ring := by
      intro k hk
      rw [hring]
      refine Memory.read_write_other _ _ _ _ hinv.ring_form (Ne.symm ?_)
      have hbehind := behind_ne (c := s.cfg.ringCap) (i := (s.tailIdx + s.tail.length.toNat) % s.cfg.ringCap) (d := 0) hk
        (by omega)
      rw [Nat.add_zero, hstart] at hbehind
      exact hbehind
    refine .inl ⟨by rw [hlen]; omega, ?_⟩
    rw [hcfg, hmissing, htail, hlen, hused, Nat.sub_add_comm hle]
    exact (hrecords.congr hcap (Nat.mod_lt _ (by omega)) hagree).push_byte hsome
  · by_cases hlast : s.missing = 1
    · refine .inl ⟨by rw [hlen]; omega, ?_⟩
      rw [hlen, hused, show s.used + 1 - s.tail.length.toNat = 0 by omega]
      exact .none _ (by omega)
    · exact .inr ⟨by rw [hlen]; omega, by rw [hlen]; omega⟩

/-! ## RX_PROCESS (41 R193 to R199) -/

theorem deadCells_add_headerSize_le (cfg : Config) (i : Nat) (udp : Bool) : deadCells cfg i + headerSize udp ≤ 17 := by
  have hdead := deadCells_le cfg i
  have hsize : headerSize udp ≤ 9 := by cases udp <;> decide
  omega

/-- PUSH_HEADER once DROP_OLDEST has made room. -/
theorem pushHeader_of_dropped {h : FrameHeader} {s u : State}
    (hu : dropOldest (deadCells s.cfg s.headIdx + headerSize h.udp) s = u) (hi : s.headIdx < s.cfg.ringCap) :
    u.cfg = s.cfg ∧ u.headIdx = s.headIdx ∧ u.rxState = s.rxState ∧ pushHeader h s = { u with
      ring := u.ring.writeList (recordStart s.cfg s.headIdx) (serialize h)
      headIdx := (recordStart s.cfg s.headIdx + headerSize h.udp) % u.cfg.ringCap } := by
  obtain ⟨_, _, _, _, hdrop⟩ := dropOnly_dropOldest (deadCells s.cfg s.headIdx + headerSize h.udp) s
  rw [hu] at hdrop
  have hcfg : u.cfg = s.cfg := by rw [hdrop]
  have hhead : u.headIdx = s.headIdx := by rw [hdrop]
  refine ⟨hcfg, hhead, by rw [hdrop], ?_⟩
  rw [pushHeader_eq, hu, hhead, jump_eq s.cfg s.headIdx hi]

/-- A header that is accepted while no frame is in flight keeps the structure of the ring. -/
theorem State.RingOk.acceptHeader {s : State} (hr : s.RingOk) (hinv : s.Inv) (hrx : s.rxState ≠ .bulk) {h : FrameHeader}
    (hbare : plainIsBare h) : (acceptHeader h s).RingOk := by
  have hroom := dropOldest_free hinv hr (deadCells_add_headerSize_le s.cfg s.headIdx h.udp)
  generalize hu : Machine.dropOldest (deadCells s.cfg s.headIdx + headerSize h.udp) s = u at hroom
  have hr' : u.RingOk := hu ▸ hr.dropOldest hinv _
  have hinv' : u.Inv := hu ▸ hinv.dropOldest _
  obtain ⟨hcfg, hhead, hstate, hpush⟩ := pushHeader_of_dropped hu hinv.head_lt
  rw [Machine.acceptHeader, pushHeader_head, hpush]
  refine hr'.push_header hinv' (State.missing_of_not_bulk (by rw [hstate]; exact hrx)) hbare
    (by rw [hcfg, hhead]; exact hroom) rfl (by rw [hcfg, hhead]) (by rw [hcfg, hhead]) rfl rfl ?_
  by_cases hlen : h.length = 0
  · rw [(length_toNat_eq_zero _).2 hlen]
    exact State.missing_of_not_bulk fun hbulk => nomatch (if_pos hlen).symm.trans hbulk
  · exact State.missing_of_bulk (if_neg hlen)

/-- A payload byte keeps the structure of the ring. -/
theorem State.RingOk.rxBulk {s : State} (hr : s.RingOk) (hinv : s.Inv) (hrx : s.rxState = .bulk) (b : Byte) :
    (rxBulk b s).RingOk := by
  have hfree := dropOldest_free hinv hr (show 1 ≤ 17 by decide)
  have hr' := hr.dropOldest hinv 1
  have hinv' := hinv.dropOldest 1
  have hlive : s.head.length ≠ 0 := hinv.bulk_head.1 hrx
  obtain ⟨_, _, _, _, hdrop⟩ := dropOnly_dropOldest 1 s
  have hfields : (Machine.dropOldest 1 s).rxState = .bulk ∧ (Machine.dropOldest 1 s).head = s.head := by
    rw [hdrop]
    exact ⟨hrx, rfl⟩
  rw [Machine.rxBulk, pushByte]
  generalize Machine.dropOldest 1 s = u at hfree hr' hinv' hfields
  obtain ⟨hstate, hhead⟩ := hfields
  have hmissing : u.missing = u.head.length.toNat := State.missing_of_bulk hstate
  have hpos : 0 < u.head.length.toNat := by
    rw [hhead]
    exact Nat.pos_of_ne_zero fun hz => hlive ((length_toNat_eq_zero _).1 hz)
  have hless : (u.head.length - 1).toNat = u.head.length.toNat - 1 := by
    have hlt := u.head.length.isLt
    bv_omega
  refine hr'.push_byte hinv' (by omega) hfree rfl rfl rfl rfl rfl ?_
  change (if (if u.head.length - 1 = 0 then RxState.idle else u.rxState) = .bulk then (u.head.length - 1).toNat else 0) = _
  rw [hmissing, ← hless]
  by_cases hlast : u.head.length - 1 = 0
  · rw [if_pos hlast, if_neg (by decide), (length_toNat_eq_zero _).2 hlast]
  · rw [if_neg hlast, if_pos hstate]

/-- The ring, its cursors and the tail frame are as they were. -/
def ringAlone (s t : State) : Prop :=
  t.cfg = s.cfg ∧ t.ring = s.ring ∧ t.headIdx = s.headIdx ∧ t.tailIdx = s.tailIdx ∧ t.tail = s.tail

theorem ringAlone.refl (s : State) : ringAlone s s := ⟨rfl, rfl, rfl, rfl, rfl⟩

/-- No frame is in flight before or after, and the ring is as it was. -/
theorem State.RingOk.alone {s t : State} (hr : s.RingOk) (hs : s.rxState ≠ .bulk) (ht : t.rxState ≠ .bulk)
    (h : ringAlone s t) : t.RingOk := by
  obtain ⟨hcfg, hring, hhead, htail, hlen⟩ := h
  exact ringSame.ringOk (s := s) ⟨hcfg, hring, hhead, htail, by rw [hlen],
    (State.missing_of_not_bulk ht).trans (State.missing_of_not_bulk hs).symm⟩ hr

theorem plainIsBare_of_udp {h : FrameHeader} (hu : h.udp = true) : plainIsBare h := fun hn =>
  absurd (hu.symm.trans hn) (by decide)

theorem ringAlone_asyncDispatch (subtype : Cid) (body : List Byte) (s : State) :
    ringAlone s (asyncDispatch subtype body s).2 := by
  obtain ⟨_, _, _, _, _, _, _, he⟩ := eventsOnly_asyncDispatch subtype body s
  rw [he]
  exact ringAlone.refl s

/-- The header states but for an accepted header leave the ring alone and enter no frame. -/
theorem State.RingOk.rxEscapeZ {s : State} (hr : s.RingOk) (hinv : s.Inv) (hs : s.rxState = .escapeZ) (b : Byte) :
    (rxEscapeZ b s).RingOk := by
  have hn : s.rxState ≠ .bulk := by rw [hs]; decide
  have hlen := (State.registersOk_iff.1 hinv.counters).2.2.2.1
  rw [hs] at hlen
  rw [Machine.rxEscapeZ]
  split
  · exact hr.alone hn hn (ringAlone.refl s)
  · split
    · rw [← acceptHeader_rxState _ .idle]
      have hstored : State.RingOk { pushScratch b s with rxState := .idle } := hr.alone hn nofun (ringAlone.refl s)
      exact hstored.acceptHeader (hinv.stored b hn (Nat.lt_of_le_of_lt hlen (by decide))) nofun fun _ => ⟨rfl, rfl⟩
    · exact hr.alone hn nofun (ringAlone.refl s)

theorem State.RingOk.rxEscapeY3 {s : State} (hr : s.RingOk) (hinv : s.Inv) (hs : s.rxState = .escapeY3) (b : Byte) :
    (rxEscapeY3 b s).RingOk := by
  have hn : s.rxState ≠ .bulk := by rw [hs]; decide
  have hlen := (State.registersOk_iff.1 hinv.counters).2.2.2.1
  rw [hs] at hlen
  rw [Machine.rxEscapeY3]
  split
  · exact hr.alone hn hn (ringAlone.refl s)
  · split
    · rw [← acceptHeader_rxState _ .idle]
      have hstored : State.RingOk { pushScratch b s with rxState := .idle } := hr.alone hn nofun (ringAlone.refl s)
      exact hstored.acceptHeader (hinv.stored b hn (Nat.lt_of_le_of_lt hlen (by decide))) nofun
        (plainIsBare_of_udp rfl)
    · exact hr.alone hn nofun (ringAlone.refl s)

theorem State.RingOk.rxEscapeA {s : State} (hr : s.RingOk) (hs : s.rxState = .escapeA) (b : Byte) :
    (rxEscapeA b s).RingOk := by
  have hn : s.rxState ≠ .bulk := by rw [hs]; decide
  rw [Machine.rxEscapeA]
  split
  · exact hr.alone hn hn (ringAlone.refl s)
  · split
    · split
      · exact hr.alone hn nofun (ringAlone_asyncDispatch _ _ _)
      · exact hr.alone hn nofun (ringAlone.refl s)
    · exact hr.alone hn nofun (ringAlone.refl s)

theorem State.RingOk.rxAsync {s : State} (hr : s.RingOk) (hs : s.rxState = .async) (b : Byte) :
    (rxAsync b s).RingOk := by
  have hn : s.rxState ≠ .bulk := by rw [hs]; decide
  rw [rxAsync_of_stored rfl]
  split
  · exact hr.alone hn nofun (ringAlone_asyncDispatch _ _ _)
  · exact hr.alone hn hn (ringAlone.refl s)

/-- Every byte keeps the structure of the ring. -/
theorem State.RingOk.rxProcess {s : State} (hr : s.RingOk) (hinv : s.Inv) (b : Byte) : (rxProcess b s).2.RingOk := by
  cases hs : s.rxState with
  | idle =>
    have hn : s.rxState ≠ .bulk := by rw [hs]; decide
    rw [rxProcess_idle b hs, rxIdle]
    split
    · exact hr.alone hn nofun (ringAlone.refl s)
    · exact hr
  | escape =>
    have hn : s.rxState ≠ .bulk := by rw [hs]; decide
    rw [rxProcess_escape b hs, rxEscape_eq]
    repeat' split
    all_goals exact hr.alone hn nofun (ringAlone.refl s)
  | escapeZ =>
    rw [rxProcess_escapeZ b hs]
    exact hr.rxEscapeZ hinv hs b
  | escapeA =>
    rw [rxProcess_escapeA b hs]
    exact hr.rxEscapeA hs b
  | escapeY1 =>
    have hn : s.rxState ≠ .bulk := by rw [hs]; decide
    rw [rxProcess_escapeY1 b hs, rxEscapeY1]
    repeat' split
    all_goals refine hr.alone hn ?_ (ringAlone.refl s)
    all_goals first | exact hn | exact nofun
  | escapeY2 =>
    have hn : s.rxState ≠ .bulk := by rw [hs]; decide
    rw [rxProcess_escapeY2 b hs, rxEscapeY2]
    repeat' split
    all_goals refine hr.alone hn ?_ (ringAlone.refl s)
    all_goals first | exact hn | exact nofun
  | escapeY3 =>
    rw [rxProcess_escapeY3 b hs]
    exact hr.rxEscapeY3 hinv hs b
  | async =>
    rw [rxProcess_async hs]
    exact hr.rxAsync hs b
  | bulk =>
    rw [rxProcess_bulk b hs]
    exact hr.rxBulk hinv hs b

end Sys2Proof.Machine
end

section
/-! PROOFS. Every host operation keeps the structure of the ring (42_ring_buffer.md R242): only bytes received, ADVANCE and
the payload taken change it, and START and STOP empty it. -/

namespace Sys2Proof.Machine

/-! ## What leaves the ring alone -/

theorem ringSame.refl (s : State) : ringSame s s := ⟨rfl, rfl, rfl, rfl, rfl, rfl⟩

theorem ringSame.trans {s t u : State} (h : ringSame s t) (h' : ringSame t u) : ringSame s u :=
  ⟨h'.1.trans h.1, h'.2.trans h.2, h'.3.trans h.3, h'.4.trans h.4, h'.5.trans h.5, h'.6.trans h.6⟩

theorem codecOnly.ringSame {s t : State} (h : codecOnly s t) : ringSame s t := by
  obtain ⟨_, _, _, _, _, _, _, _, rfl⟩ := h
  exact ⟨rfl, rfl, rfl, rfl, rfl, rfl⟩

theorem eventsOnly.ringSame {s t : State} (h : eventsOnly s t) : ringSame s t := by
  obtain ⟨_, _, _, _, _, _, _, rfl⟩ := h
  exact ⟨rfl, rfl, rfl, rfl, rfl, rfl⟩

theorem ringSame.respond {s t : State} (h : ringSame s t) (r : Response) : ringSame s (t.respond r) :=
  h.trans ⟨rfl, rfl, rfl, rfl, rfl, rfl⟩

theorem ringSame_writeNext (c : Cid) (a : Option NetAddr) (data : List Byte) (n : Nat) (s : State) :
    ringSame s (writeNext c a data n s) := by
  unfold writeNext
  repeat' split
  all_goals exact ⟨rfl, rfl, rfl, rfl, rfl, rfl⟩

theorem ringSame_frameDone (k : FrameCaller) (c : ResultCode) (s : State) : ringSame s (frameDone k c s) := by
  cases k with
  | wait => exact ⟨rfl, rfl, rfl, rfl, rfl, rfl⟩
  | frame => exact ⟨rfl, rfl, rfl, rfl, rfl, rfl⟩
  | write cid addr rest n =>
    have hwait : ringSame s { s with dataWait := false } := ⟨rfl, rfl, rfl, rfl, rfl, rfl⟩
    unfold frameDone
    dsimp only
    split
    · exact hwait.trans (ringSame_writeNext _ _ _ _ _)
    · exact ⟨rfl, rfl, rfl, rfl, rfl, rfl⟩

theorem ringSame_sendFailed (k : SendThen) (s : State) : ringSame s (sendFailed k s) := by
  cases k with
  | frame caller => exact ringSame_frameDone _ _ s
  | _ => exact ⟨rfl, rfl, rfl, rfl, rfl, rfl⟩

theorem ringSame_sendDone (k : SendThen) (s : State) : ringSame s (sendDone k s) := by
  cases k with
  | frame caller =>
    unfold sendDone
    dsimp only
    split
    · exact ⟨rfl, rfl, rfl, rfl, rfl, rfl⟩
    · exact ringSame_frameDone _ _ s
  | _ => exact ⟨rfl, rfl, rfl, rfl, rfl, rfl⟩

theorem codecOnly_sendBytes (bs : List Byte) (s : State) : codecOnly s (sendBytes bs s).2 := by
  induction bs generalizing s with
  | nil => exact .refl s
  | cons b bs ih =>
    unfold sendBytes
    split
    · exact .refl s
    · split
      · exact .refl s
      · exact (codecOnly_sendByte b s).trans (ih _)

theorem ringSame_passSend (tx : List Byte) (k : SendThen) (s : State) : ringSame s (passSend tx k s) := by
  have hpause := (codecOnly_exchangeOut s.cfg.busIdle s).ringSame
  have hsend := (codecOnly_sendBytes tx s).ringSame
  unfold passSend
  dsimp only
  split
  · exact ringSame_sendFailed k s
  · split
    · split
      · exact hpause.trans (ringSame_sendFailed k _)
      · exact hpause
    · split
      · exact hsend.trans (ringSame_sendFailed k _)
      · split
        · exact hsend.trans (ringSame_sendDone k _)
        · exact hsend.trans ⟨rfl, rfl, rfl, rfl, rfl, rfl⟩

theorem ringSame_responseEffect (name : RespName) (args : List Cid) (s : State) :
    ringSame s (responseEffect name args s) := by
  unfold responseEffect
  split
  · exact (eventsOnly_disassocCascade s).ringSame
  · exact (eventsOnly_connConnect _ _ _ _ _ s).ringSame
  · exact .refl s

theorem ringSame_endResponse (record : List Byte) (s : State) : ringSame s (s.endResponse record) :=
  ⟨rfl, rfl, rfl, rfl, rfl, rfl⟩

theorem ringSame_responseDone (e : Bool) (c : Nat) (name : RespName) (args : List Cid) (s : State) :
    ringSame s (responseDone e c name args s) :=
  (ringSame_responseEffect name args s).trans (ringSame_endResponse _ _)

theorem ringSame_responseLine (e : Bool) (b : Byte) (s : State) : ringSame s (responseLine e b s) := by
  have hline : ringSame s { s with line := (respStep s.cfg b s.line).2 } := ⟨rfl, rfl, rfl, rfl, rfl, rfl⟩
  unfold responseLine
  dsimp only
  split
  · exact hline
  · exact hline.trans (ringSame_responseDone _ _ _ _ _)

theorem ringSame_expired (s : State) : ringSame s (expired s).2 := (codecOnly_expired s).ringSame

theorem ringSame_setFatal (c : FatalCause) (s : State) : ringSame s (s.setFatal c) := (codecOnly_setFatal c s).ringSame

/-! ## Operations in progress -/

section
variable {s : State} (hr : s.RingOk) (hinv : s.Inv)
include hr hinv

omit hinv in
theorem State.RingOk.codecRecv : (codecRecv s).2.RingOk := (codecOnly_codecRecv s).ringSame.ringOk hr

theorem State.RingOk.passResponse (e : Bool) : (passResponse e s).RingOk := by
  have hrecv := hr.codecRecv
  unfold Machine.passResponse
  dsimp only
  split
  · exact ringSame.ringOk ⟨rfl, rfl, rfl, rfl, rfl, rfl⟩ hrecv
  · split
    · split
      · exact (((ringSame_expired _).trans (ringSame_setFatal _ _)).trans ⟨rfl, rfl, rfl, rfl, rfl, rfl⟩).ringOk hrecv
      · exact (ringSame_expired _).ringOk hrecv
    · next b _ =>
      have hbyte := hrecv.rxProcess hinv.codecRecv b
      split
      · exact hbyte
      · exact (ringSame_responseLine _ _ _).ringOk hbyte

theorem State.RingOk.passDataWait (k : FrameCaller) : (passDataWait k s).RingOk := by
  have hrecv := hr.codecRecv
  unfold Machine.passDataWait
  split
  · exact (ringSame_frameDone _ _ _).ringOk hr
  · exact (ringSame_frameDone _ _ _).ringOk hr
  · dsimp only
    split
    · exact (ringSame_frameDone _ _ _).ringOk hrecv
    · split
      · split
        · exact (((ringSame_expired _).trans (ringSame_setFatal _ _)).trans (ringSame_frameDone _ _ _)).ringOk hrecv
        · exact (ringSame_expired _).ringOk hrecv
      · next b _ => exact hrecv.rxProcess hinv.codecRecv b

theorem State.RingOk.pass (a : Activity) : (pass a s).RingOk := by
  cases a with
  | send tx k => exact (ringSame_passSend tx k s).ringOk hr
  | response e => exact hr.passResponse hinv e
  | dataWait k => exact hr.passDataWait hinv k

omit hr hinv in
theorem State.RingOk.runActivity (n : Nat) {s : State} (hr : s.RingOk) (hinv : s.Inv) : (runActivity n s).RingOk := by
  induction n generalizing s with
  | zero => exact hr
  | succ n ih =>
    unfold Machine.runActivity
    split
    · exact hr
    · next a _ => exact ih (hr.pass hinv a) (hinv.pass a)

theorem State.RingOk.resume : s.resume.RingOk := hr.runActivity _ hinv

/-! ## Polls and reads -/

theorem State.RingOk.pollOnce : (pollOnce s).2.RingOk := by
  have hrecv := hr.codecRecv
  unfold Machine.pollOnce
  dsimp only
  split
  · exact hrecv
  · split
    · exact hrecv
    · next b _ => exact hrecv.rxProcess hinv.codecRecv b

omit hr hinv in
theorem State.RingOk.advanceLoop (k : Nat) {s : State} (hr : s.RingOk) (hinv : s.Inv) : (advanceLoop k s).RingOk := by
  induction k generalizing s with
  | zero => exact hr
  | succ k ih =>
    by_cases hdone : s.advanced
    · rw [advanceLoop_of_advanced _ s hdone]
      exact hr
    · obtain ⟨hz, hu⟩ := not_not.1 hdone
      rw [advanceLoop_succ k s hdone]
      exact ih (hr.popHeader hinv hz hu).1 hinv.popHeader

theorem State.RingOk.advance : (advance s).RingOk := hr.advanceLoop _ hinv

theorem State.RingOk.prepare : (prepare s).2.RingOk := by
  have ha := hr.advance hinv
  unfold Machine.prepare
  dsimp only
  split
  · split
    · exact ha.pollOnce hinv.advance
    · exact (ha.pollOnce hinv.advance).advance hinv.advance.pollOnce
  · exact ha

theorem State.RingOk.popByte : (popByte s).2.RingOk := by
  by_cases hnone : s.tail.length.toNat = 0 ∨ s.used = 0
  · rw [popByte_none s hnone]
    exact hr
  · rw [popByte_taken (by omega) (by omega)]
    exact hr.taken hinv (by omega) (by omega)

omit hr hinv in
theorem State.RingOk.popBytes (k : Nat) {s : State} (hr : s.RingOk) (hinv : s.Inv) : (popBytes k s).2.RingOk := by
  induction k generalizing s with
  | zero => exact hr
  | succ k ih => exact ih (hr.popByte hinv) hinv.popByte

omit hr hinv in
theorem State.RingOk.serviceLoop (n : Nat) {s : State} (hr : s.RingOk) (hinv : s.Inv) : (serviceLoop n s).2.RingOk := by
  induction n generalizing s with
  | zero => exact hr
  | succ n ih =>
    have hpoll := hr.pollOnce hinv
    unfold Machine.serviceLoop
    dsimp only
    split
    · exact hpoll
    · exact hpoll
    · split
      · exact hpoll
      · exact ih hpoll hinv.pollOnce

/-! ## START and STOP (70 R521, R522) -/

omit hr in
/-- The ring they leave is empty. -/
theorem State.RingOk.initRegisters : s.initRegisters.RingOk := by
  have hcap := hinv.cap
  have hused : s.initRegisters.used = 0 := State.used_of_empty rfl
  refine .inl ⟨Nat.zero_le _, ?_⟩
  rw [hused]
  exact .none _ rfl

end

/-! ## The host operations -/

theorem State.RingOk.respond {s : State} (hr : s.RingOk) (r : Response) : (s.respond r).RingOk :=
  ((ringSame.refl s).respond r).ringOk hr

section
variable {s : State} (hr : s.RingOk)
include hr

theorem State.RingOk.withOperand {α : Type} {o : Option α} {f : α → State} (hf : ∀ v, (f v).RingOk) :
    (s.withOperand o f).RingOk := by
  cases o with
  | some v => exact hf v
  | none => exact hr.respond _

theorem State.RingOk.after_of_gated {i : Instr} {f : State → State} (he : exec i s = .next (s.gated f))
    (hf : (f s).RingOk) : (after i s).RingOk := by
  rw [after_of_exec he, State.gated]
  split
  · exact hr.respond _
  · split
    · exact hr.respond _
    · exact hf

theorem State.RingOk.forCid {f : State → State} (hf : (f s).RingOk) (c : Cid) : (s.forCid c f).RingOk := by
  rw [State.forCid]
  split
  · exact hr.respond _
  · split
    · exact hr.respond _
    · exact hf

theorem State.RingOk.answerByte (o : List Byte) (v : Option Byte) : (s.answerByte o v).RingOk := by
  cases v <;> exact hr.respond _

theorem State.RingOk.prepared (hinv : s.Inv) {f : State → State} (hf : ∀ t : State, t.RingOk → t.Inv → (f t).RingOk) :
    (s.prepared f).RingOk := by
  have hp := hr.prepare hinv
  rw [State.prepared]
  dsimp only
  split
  · exact hf _ hp hinv.prepare
  · exact hp.respond _

/-- An operation that waits on the link: it begins by leaving the ring alone. -/
theorem State.RingOk.begun {t : State} (hinv : t.Inv) (h : ringSame s t) : t.resume.RingOk :=
  (h.ringOk hr).resume hinv

end

theorem State.RingOk.startInit {s : State} (hinv : s.Inv) (m : LinkMode) (l : Lifecycle) :
    State.RingOk { s.startInit m with lifecycle := l } :=
  ringSame.ringOk (s := s.initRegisters) ⟨rfl, rfl, rfl, rfl, rfl, rfl⟩ (.initRegisters hinv)

theorem State.RingOk.stopInit {s : State} (hinv : s.Inv) : s.stopInit.RingOk :=
  ringSame.ringOk (s := s.initRegisters) ⟨rfl, rfl, rfl, rfl, rfl, rfl⟩ (.initRegisters hinv)

/-- Every host operation keeps the structure of the ring. -/
theorem State.RingOk.after {s : State} (hr : s.RingOk) (hinv : s.Inv) (i : Instr) (hhost : i.port = .host) :
    (after i s).RingOk := by
  cases i with
  | start m =>
    rw [after_of_exec (exec_start m s)]
    split
    · exact hr.respond _
    · exact hr.withOperand fun m => (State.RingOk.startInit hinv m _).respond _
  | startDone k =>
    refine hr.after_of_gated (exec_startDone k s) ?_
    split
    · exact hr.respond _
    · refine hr.withOperand fun done => ?_
      split
      · exact (ringSame.respond ⟨rfl, rfl, rfl, rfl, rfl, rfl⟩ _).ringOk hr
      · exact (State.RingOk.stopInit hinv).respond _
  | stop => exact (State.RingOk.stopInit hinv).respond _
  | status => exact hr.respond _
  | service =>
    refine hr.after_of_gated rfl ?_
    have hloop := hr.serviceLoop s.cfg.serviceMaxIter hinv
    dsimp only
    split
    · exact ((eventsOnly_clearEvents _).ringSame.ringOk hloop).respond _
    · exact hloop.respond _
  | poll =>
    refine hr.after_of_gated rfl ?_
    dsimp only
    split <;> exact (hr.pollOnce hinv).respond _
  | peek c =>
    exact hr.after_of_gated rfl <| hr.withOperand fun c => hr.prepared hinv fun t ht _ =>
      ht.forCid (ht.answerByte _ _) c
  | read c =>
    exact hr.after_of_gated rfl <| hr.withOperand fun c => hr.prepared hinv fun t ht hi =>
      ht.forCid ((ht.popByte hi).answerByte _ _) c
  | readAny =>
    refine hr.after_of_gated rfl <| hr.prepared hinv fun t ht hi => ?_
    split
    · exact ht.respond _
    · exact (ht.popByte hi).answerByte _ _
  | readBuf c n =>
    exact hr.after_of_gated rfl <| hr.withOperand fun c => hr.prepared hinv fun t ht hi =>
      ht.forCid ((ht.popBytes _ hi).respond _) c
  | firstCid =>
    refine hr.after_of_gated rfl <| hr.prepared hinv fun t ht _ => ?_
    split <;> exact ht.respond _
  | available c =>
    refine hr.after_of_gated rfl <| hr.withOperand fun c => hr.prepared hinv fun t ht _ => ?_
    split <;> exact ht.respond _
  | availableAny => exact hr.after_of_gated rfl <| hr.prepared hinv fun t ht _ => ht.respond _
  | write c data | writeTo c ip port data =>
    exact hr.after_of_gated rfl <| hr.withOperand fun c =>
      hr.begun (hinv.writeNext _ _ _ _) (ringSame_writeNext _ _ _ _ _)
  | sendCommand text | sendCommandExpectOk text =>
    exact hr.after_of_gated rfl <| hr.begun (hinv.beginActivity _) ⟨rfl, rfl, rfl, rfl, rfl, rfl⟩
  | readResponse m n =>
    refine hr.after_of_gated rfl <| hr.withOperand fun mode => ?_
    split
    · exact hr.respond _
    · next hraw =>
      refine hr.begun ((hinv.withLine _ (LineState.fresh_ok _ _ _ ?_)).beginActivity _) ⟨rfl, rfl, rfl, rfl, rfl, rfl⟩
      split
      · next hm => exact Nat.le_of_not_lt fun hn => hraw ⟨hm, hn⟩
      · exact Config.maxRespLen_lt_internal _ hinv.config
  | connQuery c => exact hr.after_of_gated rfl <| hr.withOperand fun c => hr.respond _
  | connSet c ip rport lport ssl =>
    exact hr.after_of_gated rfl <| hr.withOperand fun c => hr.withOperand fun ssl =>
      ((eventsOnly_connConnect _ _ _ _ _ s).ringSame.ringOk hr).respond _
  | assocQuery => exact hr.after_of_gated rfl <| hr.respond _
  | assocSet => exact hr.after_of_gated rfl <| ((eventsOnly_assocUpdate s).ringSame.ringOk hr).respond _
  | _ => cases hhost

/-- Settles O9: in each of the four ways a step can end; the word of a host port is a host operation's. -/
theorem hostStepsKeepTheRing : Obligations.HostStepsKeepTheRing := by
  intro s t hinv hr hports hstep
  cases step_ends hstep with
  | resumed a ha => exact hr.resume hinv
  | idle ha hp => exact hr
  | illegal r rest ha hp => exact (ringSame.respond ⟨rfl, rfl, rfl, rfl, rfl, rfl⟩ _).ringOk hr
  | ran i r rest ha hp hd =>
    have hhost : i.port = .host := by
      rw [((decode_eq_ok _ _ _).1 hd).2.2]
      exact hports r (by rw [hp]; exact List.mem_cons_self)
    exact State.RingOk.after (s := { s with port := rest }) (ringSame.ringOk (s := s) ⟨rfl, rfl, rfl, rfl, rfl, rfl⟩ hr)
      (hinv.port rest) i hhost

end Sys2Proof.Machine
end

section
/-! PROOFS. A frame from the link to the host (42_ring_buffer.md R254, 46_host_ops.md R433): in an empty ring with room
its record and its payload lie one behind the other, and READ_BUF reads them back. -/

namespace Sys2Proof.Machine

/-! ## The header in an empty ring -/

/-- A header accepted with room for its record: nothing is dropped. -/
theorem acceptHeader_of_room {h : FrameHeader} {s : State} (hi : s.headIdx < s.cfg.ringCap)
    (hroom : deadCells s.cfg s.headIdx + headerSize h.udp ≤ s.free) : acceptHeader h s = { s with
      head := h
      ring := s.ring.writeList (recordStart s.cfg s.headIdx) (serialize h)
      headIdx := (recordStart s.cfg s.headIdx + headerSize h.udp) % s.cfg.ringCap
      scratchLen := 0
      rxState := if h.length = 0 then .idle else .bulk } := by
  obtain ⟨-, -, -, hpush⟩ := pushHeader_of_dropped (h := h) (dropOldest_of_room hroom) hi
  rw [acceptHeader, pushHeader_head, hpush]

/-! ## The payload behind it -/

theorem after_rxProcess_bulk_of_room {b : Byte} {s : State} (hrx : s.rxState = .bulk) (hroom : 1 ≤ s.free) :
    after (.rxProcess b) s = { s with
      ring := s.ring.write s.headIdx b
      headIdx := (s.headIdx + 1) % s.cfg.ringCap
      head := { s.head with length := s.head.length - 1 }
      rxState := if s.head.length - 1 = 0 then .idle else .bulk
      result := some (.rx .absorbed) } := by
  rw [after_rxProcess, rxProcess_bulk b hrx, rxBulk_of_room b hroom, hrx]
  rfl

/-- Payload bytes that fit are written one behind the other, and the last of the frame ends it. -/
theorem feed_payload (data : List Byte) : ∀ (s : State), s.rxState = .bulk → s.headIdx < s.cfg.ringCap →
    s.tailIdx < s.cfg.ringCap → s.ring.wf = true → data ≠ [] → data.length ≤ s.head.length.toNat →
    s.used + data.length < s.cfg.ringCap →
    ∃ (ring : Memory) (hd : FrameHeader) (rx : RxState) (r : Option Response),
      feed data s = { s with
        ring := ring, headIdx := (s.headIdx + data.length) % s.cfg.ringCap, head := hd, rxState := rx, result := r }
      ∧ (data.length = s.head.length.toNat → rx = .idle)
      ∧ (∀ j < data.length, ring.read ((s.headIdx + j) % s.cfg.ringCap) = data.getD j 0)
      ∧ ∀ x, (∀ j < data.length, (s.headIdx + j) % s.cfg.ringCap ≠ x) → ring.read x = s.ring.read x := by
  induction data with
  | nil => intro s _ _ _ _ hne; exact absurd rfl hne
  | cons b rest ih =>
    intro s hrx hhead htail hwf _ hlen hroom
    rw [List.length_cons] at hlen hroom
    have hlt := s.head.length.isLt
    have hless : (s.head.length - 1).toNat = s.head.length.toNat - 1 := by bv_omega
    have hafter := after_rxProcess_bulk_of_room (b := b) hrx (show 1 ≤ s.free by rw [State.free]; omega)
    have hcell : (s.headIdx + 0) % s.cfg.ringCap = s.headIdx := by rw [Nat.add_zero, Nat.mod_eq_of_lt hhead]
    have hother (x : Nat) (hx : (s.headIdx + 0) % s.cfg.ringCap ≠ x) :
        (s.ring.write s.headIdx b).read x = s.ring.read x :=
      Memory.read_write_other _ _ _ _ hwf (by rw [← hcell]; exact hx)
    rw [feed, hafter]
    by_cases hrest : rest = []
    · subst hrest
      refine ⟨_, _, _, _, rfl, fun hlast => ?_, fun j hj => ?_, fun x hx => hother x (hx 0 (by simp))⟩
      · exact if_pos ((length_toNat_eq_zero _).1 (by rw [hless, ← hlast]; rfl))
      · obtain rfl : j = 0 := by simpa using hj
        rw [hcell, Memory.read_write_same _ _ _ hwf]
        rfl
    · have hpos := List.length_pos_iff.2 hrest
      have hmore : ¬ s.head.length - 1 = 0 := fun hz => by
        rw [← length_toNat_eq_zero, hless] at hz
        omega
      rw [if_neg hmore]
      generalize hu : ({ s with
        ring := s.ring.write s.headIdx b
        headIdx := (s.headIdx + 1) % s.cfg.ringCap
        head := { s.head with length := s.head.length - 1 }
        rxState := .bulk
        result := some (.rx .absorbed) } : State) = u
      have hused : u.used = s.used + 1 := by
        rw [← hu]
        exact cursor_distance_push hhead htail (by rw [← State.used]; omega)
      have hnext (j : Nat) : ((s.headIdx + 1) % s.cfg.ringCap + j) % s.cfg.ringCap =
          (s.headIdx + (j + 1)) % s.cfg.ringCap := by
        rw [Nat.mod_add_mod, Nat.add_assoc, Nat.add_comm 1]
      obtain ⟨ring, hd, rx, r, hfeed, hlast, hread, hkeep⟩ := ih u (by rw [← hu]) (by
          rw [← hu]
          exact Nat.mod_lt _ (by omega)) (by rw [← hu]; exact htail) (by
          rw [← hu]
          exact Memory.wf_write _ _ _ hwf) hrest (by
          rw [← hu]
          dsimp only
          omega) (by
          rw [hused, ← hu]
          dsimp only
          omega)
      subst hu
      dsimp only at hfeed hlast hread hkeep
      refine ⟨ring, hd, rx, r, ?_, fun hall => hlast (by rw [List.length_cons] at hall; omega), fun j hj => ?_,
        fun x hx => ?_⟩
      · rw [hfeed, hnext]
        rfl
      · cases j with
        | zero =>
          rw [hkeep _ fun j hj => ?_, hcell, Memory.read_write_same _ _ _ hwf]
          · rfl
          · rw [hnext]
            exact (behind_ne (i := s.headIdx) (c := s.cfg.ringCap) (k := 0) (u := 1) (d := j) (by decide) (by omega)
              |>.symm |> fun hne => by rwa [Nat.add_comm 1 j] at hne)
        | succ j =>
          rw [← hnext, hread j (by simpa using hj)]
          rfl
      · rw [hkeep x fun j hj => ?_]
        · exact hother x (hx 0 (by simp))
        · rw [hnext]
          exact hx (j + 1) (by simpa using hj)

/-! ## READ_BUF of a frame that has arrived whole -/

/-- A frame of `data` under the header `h`, alone in the ring behind the reading cursor. -/
structure frameWhole (h : FrameHeader) (data : List Byte) (w : State) : Prop where
  head_lt : w.headIdx < w.cfg.ringCap
  tail_lt : w.tailIdx < w.cfg.ringCap
  tail_done : w.tail.length = 0
  bare : plainIsBare h
  length_eq : data.length = h.length.toNat
  pos : 0 < data.length
  fits : deadCells w.cfg w.tailIdx + headerSize h.udp + data.length < w.cfg.ringCap
  record : w.ring.readN (recordStart w.cfg w.tailIdx) (headerSize h.udp) = serialize h
  headIdx_eq : w.headIdx = (w.tailIdx + (deadCells w.cfg w.tailIdx + headerSize h.udp + data.length)) % w.cfg.ringCap
  cells : ∀ j < data.length,
    w.ring.read ((w.tailIdx + (deadCells w.cfg w.tailIdx + headerSize h.udp + j)) % w.cfg.ringCap) = data.getD j 0

section
variable {h : FrameHeader} {data : List Byte} {w : State} (hf : frameWhole h data w)
include hf

theorem frameWhole.popHeader_eq : popHeader w = { w with
    tail := h
    tailIdx := (w.tailIdx + (deadCells w.cfg w.tailIdx + headerSize h.udp)) % w.cfg.ringCap } := by
  rw [popHeader_of_record h w hf.bare hf.record, add_deadCells_mod w.cfg w.tailIdx (headerSize h.udp) hf.tail_lt]

theorem frameWhole.used_eq : w.used = deadCells w.cfg w.tailIdx + headerSize h.udp + data.length := by
  have hfits := hf.fits
  have hself : (w.tailIdx + w.cfg.ringCap - w.tailIdx) % w.cfg.ringCap = 0 := by
    rw [Nat.add_sub_cancel_left, Nat.mod_self]
  rw [State.used, hf.headIdx_eq, cursor_distance_push hf.tail_lt hf.tail_lt (by omega), hself, Nat.zero_add]

theorem frameWhole.used_popHeader : (popHeader w).used = data.length := by
  have hused := hf.used_eq
  rw [hf.popHeader_eq]
  refine (cursor_distance_add hf.head_lt hf.tail_lt ?_).trans ?_
  · rw [← State.used, hused]
    omega
  · rw [← State.used, hused]
    omega

theorem frameWhole.popHeader_live : 0 < (popHeader w).tail.length.toNat := by
  have hpos := hf.pos
  have hlen := hf.length_eq
  rw [hf.popHeader_eq]
  dsimp only
  omega

theorem frameWhole.prepare_eq : prepare w = (true, popHeader w) := by
  have hpos := hf.pos
  have hused := hf.used_eq
  have hlive := hf.popHeader_live
  have hadvance : advance w = popHeader w := by
    rw [advance, ← Nat.sub_add_cancel (n := w.cfg.ringCap) (m := 1) (by have := hf.fits; omega),
      advanceLoop_succ _ w fun hd => hd ⟨hf.tail_done, by omega⟩]
    exact advanceLoop_of_advanced _ _ (State.advanced_of_live hlive)
  have havail : ¬ availableBytes (popHeader w) = 0 := by
    rw [availableBytes_eq, hf.used_popHeader]
    omega
  rw [prepare, hadvance]
  exact if_neg havail

/-- READ_BUF takes as many bytes as are asked for and as the frame has, in arrival order. -/
theorem exec_readBuf_frame (ha : w.alive) (n : Half) :
    let k := min n.toNat data.length
    ∃ i, exec (.readBuf (BitVec.ofNat 8 h.cid.val) n) w = .next { w with
      tailIdx := i
      tail := { h with length := h.length - BitVec.ofNat 16 k }
      result := some (.record (0x00 :: BitVec.ofNat 8 k :: BitVec.ofNat 8 (k / 256) :: data.take k)) } := by
  intro k
  have hlen := hf.length_eq
  have hlt := h.length.isLt
  have hused := hf.used_popHeader
  have htail : (popHeader w).tail = h := by rw [hf.popHeader_eq]
  have havail : availableBytes (popHeader w) = data.length := by rw [availableBytes_eq, hused, htail]; omega
  have hbytes : ((List.range k).map fun j =>
      (popHeader w).ring.read (((popHeader w).tailIdx + j) % (popHeader w).cfg.ringCap)) = data.take k := by
    refine List.ext_getElem (by simp [k]) fun j hj _ => ?_
    have hjk : j < data.length := by
      rw [List.length_map, List.length_range] at hj
      omega
    simp only [List.getElem_map, List.getElem_range, List.getElem_take]
    rw [hf.popHeader_eq]
    dsimp only
    rw [Nat.mod_add_mod, Nat.add_assoc, hf.cells j hjk, List.getD_eq_getElem _ _ hjk]
  have hrest : BitVec.ofNat 16 (h.length.toNat - k) = h.length - BitVec.ofNat 16 k := by bv_omega
  refine ⟨((popHeader w).tailIdx + k) % w.cfg.ringCap, ?_⟩
  rw [exec_readBuf_prepared ha hf.prepare_eq, State.forCid_same hf.popHeader_live (by rw [htail]), havail,
    popBytes_available k (popHeader w) (by rw [hf.popHeader_eq]; exact hf.head_lt) (by
      rw [hf.popHeader_eq]
      exact Nat.mod_lt _ (Nat.zero_lt_of_lt hf.tail_lt)) (by rw [htail, hused]; omega),
    countBytes_of_lt k (by omega), hbytes, htail, hrest]
  rw [hf.popHeader_eq]
  rfl

end

/-! ## The whole frame -/

/-- The cells of a record lie in one piece from its start. -/
theorem recordStart_add_eq (cfg : Config) {i k : Nat} {udp : Bool} (hc : 32 ≤ cfg.ringCap) (hi : i < cfg.ringCap)
    (hk : k < headerSize udp) : recordStart cfg i + k = (i + (deadCells cfg i + k)) % cfg.ringCap := by
  have hfits := recordStart_fits cfg i udp hc hi
  rw [add_deadCells_mod cfg i k hi, Nat.mod_eq_of_lt (by omega)]

/-- A frame that fits arrives whole in an empty ring, and leaves Idle. -/
theorem feed_frameWhole {h : FrameHeader} {data : List Byte} {s : State} (hinv : s.Inv) (hd : lettersDiffer s.cfg)
    (hidle : s.rxState = .idle) (hempty : s.ringEmpty) (hbare : plainIsBare h) (hne : data ≠ [])
    (hlen : data.length = h.length.toNat) (hmax : h.length.toNat ≤ 9999)
    (hroom : deadCells s.cfg s.headIdx + headerSize h.udp + data.length ≤ s.cfg.ringCap - 1) :
    ∃ w, feed (encodeRxHeader s.cfg h ++ data) s = w ∧ frameWhole h data w ∧ w.rxState = .idle ∧ w.trace = s.trace
      ∧ w.lifecycle = s.lifecycle ∧ w.unrecoverable = s.unrecoverable := by
  obtain ⟨hindex, hdone⟩ := hempty
  obtain ⟨hhead, htail, -⟩ := State.registersOk_iff.1 hinv.counters
  have hpos := List.length_pos_iff.2 hne
  have hcap := Config.ringCap_ge s.cfg hinv.config
  have hused := State.used_of_empty hindex
  have hlive : ¬ h.length = 0 := fun hz => by rw [← length_toNat_eq_zero] at hz; omega
  have hfree : deadCells s.cfg s.headIdx + headerSize h.udp ≤ s.free := by
    rw [State.free]
    omega
  obtain ⟨t, ht, hheader⟩ := feed_encodeRxHeader h s hd hidle hinv.scratch_form hbare (by omega)
  have haccept : acceptHeader h t = _ := acceptHeader_of_room (by
      obtain ⟨_, _, _, _, _, _, _, rfl⟩ := ht
      exact hhead) (by
      obtain ⟨_, _, _, _, _, _, _, rfl⟩ := ht
      exact hfree)
  rw [haccept, if_neg hlive] at hheader
  obtain ⟨rx, sc, n, cid, ip, port, r, rfl⟩ := ht
  dsimp only [State.respond] at hheader
  generalize hu : feed (encodeRxHeader s.cfg h) s = u at hheader
  rw [← add_deadCells_mod s.cfg s.headIdx _ hhead] at hheader
  have hu_used : u.used = deadCells s.cfg s.headIdx + headerSize h.udp := by
    have hself : (s.headIdx + s.cfg.ringCap - s.headIdx) % s.cfg.ringCap = 0 := by
      rw [Nat.add_sub_cancel_left, Nat.mod_self]
    rw [State.used, hheader]
    dsimp only
    rw [← hindex, cursor_distance_push hhead hhead (by omega), hself, Nat.zero_add]
  have hu_wf : u.ring.wf = true := by
    rw [hheader]
    exact Memory.wf_writeList _ _ _ hinv.ring_form
  obtain ⟨ring, hd', rx', r', hfeed, hlast, hread, hkeep⟩ := feed_payload data u (by rw [hheader]) (by
      rw [hheader]
      exact Nat.mod_lt _ (by omega)) (by rw [hheader]; exact htail) hu_wf hne (by
      rw [hheader]
      exact hlen.le) (by
      rw [hu_used, hheader]
      dsimp only
      omega)
  have hrecord : ring.readN (recordStart s.cfg s.headIdx) (headerSize h.udp) = serialize h := by
    have hwritten := Memory.readN_writeList (serialize h) s.ring (recordStart s.cfg s.headIdx) hinv.ring_form
    rw [length_serialize] at hwritten
    rw [← hwritten, Memory.readN_eq_map, Memory.readN_eq_map]
    refine List.map_congr_left fun k hk => ?_
    have hk := List.mem_range.1 hk
    have hring : u.ring = s.ring.writeList (recordStart s.cfg s.headIdx) (serialize h) := by rw [hheader]
    rw [← hring]
    refine hkeep _ fun j hj => ?_
    have hbehind := behind_ne (i := s.headIdx) (c := s.cfg.ringCap) (k := deadCells s.cfg s.headIdx + k)
      (u := deadCells s.cfg s.headIdx + headerSize h.udp) (d := j) (by omega) (by omega)
    rw [recordStart_add_eq s.cfg hcap hhead hk, hheader]
    dsimp only
    rw [Nat.mod_add_mod, Nat.add_assoc]
    exact hbehind.symm
  refine ⟨_, feed_append _ _ s, ?_⟩
  rw [hu, hfeed]
  rw [hheader] at hread hlast ⊢
  dsimp only at hread hlast ⊢
  refine ⟨?_, hlast hlen, rfl, rfl, rfl⟩
  exact {
    head_lt := Nat.mod_lt _ (by omega)
    tail_lt := htail
    tail_done := hdone
    bare := hbare
    length_eq := hlen
    pos := hpos
    fits := by
      dsimp only
      rw [← hindex]
      omega
    record := by
      dsimp only
      rw [← hindex]
      exact hrecord
    headIdx_eq := by
      dsimp only
      rw [← hindex, Nat.mod_add_mod, Nat.add_assoc]
    cells := fun j hj => by
      dsimp only
      rw [← hindex, ← hread j hj, Nat.mod_add_mod, Nat.add_assoc s.headIdx] }

/-- Settles O33: the frame arrives whole, and READ_BUF reads it from its first byte. -/
theorem frameIsDeliveredAsSent : Obligations.FrameIsDeliveredAsSent := by
  intro h data n s hinv ha hd hidle hempty hbare hne hlen hmax hroom t k
  obtain ⟨w, hfeed, hwhole, hrx, htrace, hlife, hlive⟩ :=
    feed_frameWhole hinv hd hidle hempty hbare hne hlen hmax hroom
  obtain ⟨i, hexec⟩ := exec_readBuf_frame hwhole (show w.alive from ⟨hlife ▸ ha.1, hlive ▸ ha.2⟩) n
  have ht : t = _ := (congrArg (after _) hfeed).trans (after_of_exec hexec)
  rw [ht]
  exact ⟨rfl, rfl, hrx, htrace⟩

end Sys2Proof.Machine
end

section
/-! PROOFS. CLASSIFY_LINE accepts the grammar of 30 R109 (43 R295): the code, the row of the table and the arguments as
one equivalence each, and the statement over whole lines. -/

namespace Sys2Proof.Machine

/-! ## The parts of a code line -/

/-- The spelling of a code: one digit, or two with no leading zero. -/
def codeText (c : Nat) : List Byte := if c < 10 then [decChar c] else [decChar (c / 10), decChar (c % 10)]

/-- Arguments: one SP before each character. -/
def argText (chars : List Byte) : List Byte := chars.flatMap fun ch => [chSP, ch]

@[simp] theorem argText_nil : argText [] = [] := rfl

@[simp] theorem argText_cons (ch : Byte) (chars : List Byte) : argText (ch :: chars) = chSP :: ch :: argText chars := rfl

theorem isDec_chSP : isDec chSP = false := rfl

theorem decChar_decValue (b : Byte) (hb : isDec b = true) : decChar (decValue b) = b := by
  have hrange := (isDec_iff b).1 hb
  refine BitVec.eq_of_toNat_eq ?_
  rw [toNat_decChar _ (by rw [decValue]; omega), decValue]
  omega

theorem decValue_lt (b : Byte) (hb : isDec b = true) : decValue b < 10 := by
  have hrange := (isDec_iff b).1 hb
  rw [decValue]
  omega

/-- A HEX character of either case is one whose value is below 16. -/
theorem parseHexCid_eq_some_iff (ch : Byte) (v : Cid) : parseHexCid ch = some v ↔ digitValue ch = some v.val := by
  have hparse : parseInt [ch] 16 8 = (digitValue ch).filter fun d => decide (d < 16) := by
    rw [parseInt, if_neg (by decide), parseDigits]
    cases digitValue ch with
    | none => rfl
    | some d =>
      by_cases hd : d < 16
      · simp [Option.filter, hd, Nat.not_le.2 hd, show ¬ 256 ≤ d by omega, parseDigits]
      · simp [Option.filter, hd, Nat.not_lt.1 hd]
  rw [parseHexCid, hparse]
  cases digitValue ch with
  | none => simp
  | some d =>
    have hv := v.isLt
    by_cases hd : d < 16
    · simp [hd, Fin.ext_iff, Nat.mod_eq_of_lt hd]
    · simp [hd]
      omega

/-- `n` arguments and nothing behind them. -/
theorem classifyArgs_eq_some_iff (n : Nat) : ∀ (rest : List Byte) (args : List Cid), classifyArgs n rest = some args ↔
    ∃ chars, rest = argText chars ∧ chars.length = n
      ∧ List.Forall₂ (fun ch (v : Cid) => digitValue ch = some v.val) chars args := by
  induction n with
  | zero =>
    intro rest args
    constructor
    · intro h
      cases rest with
      | nil =>
        cases h
        exact ⟨[], rfl, rfl, .nil⟩
      | cons b rest => cases h
    · rintro ⟨chars, rfl, hlen, hargs⟩
      obtain rfl := List.length_eq_zero_iff.1 hlen
      cases hargs
      rfl
  | succ n ih =>
    intro rest args
    constructor
    · intro h
      match rest, h with
      | sp :: ch :: rest, h =>
        by_cases hsp : sp = chSP
        · cases hv : parseHexCid ch with
          | none => simp [classifyArgs, hsp, hv] at h
          | some v =>
            cases hvs : classifyArgs n rest with
            | none => simp [classifyArgs, hsp, hv, hvs] at h
            | some vs =>
              obtain ⟨chars, rfl, hlen, hargs⟩ := (ih rest vs).1 hvs
              obtain rfl : v :: vs = args := by simpa [classifyArgs, hsp, hv, hvs] using h
              exact ⟨ch :: chars, by rw [hsp, argText_cons], by rw [List.length_cons, hlen],
                .cons ((parseHexCid_eq_some_iff ch v).1 hv) hargs⟩
        · simp [classifyArgs, hsp] at h
    · rintro ⟨chars, rfl, hlen, hargs⟩
      cases hargs with
      | nil => cases hlen
      | @cons ch v chars vs hch hargs =>
        have hv := (parseHexCid_eq_some_iff ch v).2 hch
        have hvs := (ih (argText chars) vs).2 ⟨chars, rfl, Nat.succ.inj hlen, hargs⟩
        simp [classifyArgs, hv, hvs]

/-- What is read as a code is its spelling. -/
theorem classifyCode_text {line rest : List Byte} {c : Nat} (h : classifyCode line = some (c, rest)) :
    line = codeText c ++ rest := by
  match line, h with
  | d :: tail, h =>
    by_cases hd : isDec d = true
    · have hlt := decValue_lt d hd
      have hone : codeText (decValue d) = [d] := by rw [codeText, if_pos hlt, decChar_decValue d hd]
      cases tail with
      | nil =>
        obtain ⟨rfl, rfl⟩ : decValue d = c ∧ [] = rest := by simpa [classifyCode, hd] using h
        rw [hone]
        rfl
      | cons e tail =>
        by_cases he : isDec e = true
        · by_cases hz : decValue d = 0
          · simp [classifyCode, hd, he, hz] at h
          · obtain ⟨rfl, rfl⟩ : 10 * decValue d + decValue e = c ∧ tail = rest := by
              simpa [classifyCode, hd, he, hz] using h
            have hlt' := decValue_lt e he
            have htens : (10 * decValue d + decValue e) / 10 = decValue d := by omega
            have hunits : (10 * decValue d + decValue e) % 10 = decValue e := by omega
            rw [codeText, if_neg (by omega), htens, hunits, decChar_decValue d hd, decChar_decValue e he]
            rfl
        · obtain ⟨rfl, rfl⟩ : decValue d = c ∧ e :: tail = rest := by simpa [classifyCode, hd, he] using h
          rw [hone]
          rfl
    · simp [classifyCode, hd] at h

/-- A code's spelling with no further digit behind it is read as the code. -/
theorem classifyCode_codeText {c : Nat} (hc : c < 100) (chars : List Byte) :
    classifyCode (codeText c ++ argText chars) = some (c, argText chars) := by
  by_cases hone : c < 10
  · rw [codeText, if_pos hone]
    cases chars with
    | nil => simp [classifyCode, isDec_decChar c hone, decValue_decChar c hone]
    | cons ch chars => simp [classifyCode, isDec_decChar c hone, decValue_decChar c hone, isDec_chSP]
  · have htens : c / 10 < 10 := by omega
    have hunits : c % 10 < 10 := by omega
    have hlead : ¬ c / 10 = 0 := by omega
    have hvalue : 10 * (c / 10) + c % 10 = c := Nat.div_add_mod c 10
    rw [codeText, if_neg hone]
    simp [classifyCode, isDec_decChar _ htens, decValue_decChar _ htens, isDec_decChar _ hunits,
      decValue_decChar _ hunits, hlead, hvalue]

/-- The code numbers of a valid table are distinct, so a row is found by its number. -/
theorem Config.row_eq_some_iff {cfg : Config} (hv : cfg.valid = true) (c : Nat) (r : RespRow) :
    cfg.row c = some r ↔ r ∈ cfg.respTable ∧ r.code = c := by
  have hnodup : (cfg.respTable.map fun r => r.code).Nodup := by
    simp only [Config.valid, Config.tableOk, Bool.and_eq_true, decide_eq_true_eq] at hv
    exact hv.1.2.1
  rw [Config.row]
  constructor
  · intro h
    exact ⟨List.mem_of_find?_eq_some h, by simpa using List.find?_some h⟩
  · rintro ⟨hmem, rfl⟩
    cases hfind : cfg.respTable.find? fun q => q.code == r.code with
    | none => exact absurd (List.find?_eq_none.1 hfind r hmem) (by simp)
    | some q =>
      have hcode : q.code = r.code := by simpa using List.find?_some hfind
      rw [List.inj_on_of_nodup_map hnodup (List.mem_of_find?_eq_some hfind) hmem hcode]

/-! ## The line -/

section
variable {cfg : Config} {line : List Byte} {c : Nat} {name : RespName} {args : List Cid}

/-- A line other than "OK" is a code exactly when the three parts are there. -/
theorem classifyLine_eq_code_iff (hne : line ≠ textOK) : classifyLine cfg line = .code c name args ↔
    ∃ rest r, classifyCode line = some (c, rest) ∧ cfg.row c = some r ∧ r.name = name
      ∧ classifyArgs r.argc rest = some args := by
  constructor
  · intro h
    rw [classifyLine, if_neg hne] at h
    split at h
    · cases h
    · next k rest hcode =>
      split at h
      · cases h
      · next r hrow =>
        split at h
        · cases h
        · next vs hargs =>
          cases h
          exact ⟨rest, r, hcode, hrow, rfl, hargs⟩
  · rintro ⟨rest, r, hcode, hrow, rfl, hargs⟩
    exact classifyLine_eq_code hne hcode hrow hargs

/-- The same for a valid table, in the spelling of 30 R109. -/
theorem classifyLine_eq_code_iff_text (hv : cfg.valid = true) (hne : line ≠ textOK) :
    classifyLine cfg line = .code c name args ↔ ∃ (argc : Nat) (chars : List Byte), ⟨c, name, argc⟩ ∈ cfg.respTable
      ∧ c ≤ 18 ∧ line = codeText c ++ argText chars ∧ chars.length = argc
      ∧ List.Forall₂ (fun ch (v : Cid) => digitValue ch = some v.val) chars args := by
  rw [classifyLine_eq_code_iff hne]
  constructor
  · rintro ⟨rest, r, hcode, hrow, rfl, hargs⟩
    obtain ⟨hmem, rfl⟩ := (Config.row_eq_some_iff hv c r).1 hrow
    obtain ⟨chars, rfl, hlen, hvalues⟩ := (classifyArgs_eq_some_iff _ _ _).1 hargs
    exact ⟨r.argc, chars, hmem, Config.table_code_le cfg hv r hmem, classifyCode_text hcode, hlen, hvalues⟩
  · rintro ⟨argc, chars, hmem, hc, rfl, hlen, hvalues⟩
    exact ⟨argText chars, ⟨c, name, argc⟩, classifyCode_codeText (by omega) chars,
      (Config.row_eq_some_iff hv c _).2 ⟨hmem, rfl⟩, rfl, (classifyArgs_eq_some_iff _ _ _).2 ⟨chars, rfl, hlen, hvalues⟩⟩

end

/-- Settles O35. -/
theorem classifierAcceptsTheGrammar : Obligations.ClassifierAcceptsTheGrammar := by
  intro s line hv
  refine ⟨classifyLine s.cfg line, exec_classifyLine line s, fun hne c name args => ?code, fun hok => ?ok⟩
  case code => exact classifyLine_eq_code_iff_text hv hne
  case ok =>
    subst hok
    exact ⟨s.cfg.okCode, classifyLine_textOK s.cfg, fun r hr => Config.okCode_of_one s.cfg r hr⟩

end Sys2Proof.Machine
end

section
/-! PROOFS. READ_RESPONSE and SEND_COMMAND_EXPECT_OK beyond a whole reply (43_correlator.md R303 to R305, R308): the bytes
that RESP_STEP goes on after and the one with which it is done, pass by pass; then the lines before the code line. -/

namespace Sys2Proof.Machine

/-! ## RESP_STEP beyond several bytes (43 R304) -/

/-- RESP_STEP goes on after each of the bytes, and leaves `m`. -/
def moreTo (cfg : Config) : List Byte → LineState → LineState → Prop
  | [], l, m => m = l
  | b :: bs, l, m => ∃ l', respStep cfg b l = (.more, l') ∧ moreTo cfg bs l' m

section
variable {cfg : Config}

theorem moreTo.append (xs : List Byte) : ∀ {ys : List Byte} {l m k : LineState}, moreTo cfg xs l m →
    moreTo cfg ys m k → moreTo cfg (xs ++ ys) l k := by
  induction xs with
  | nil =>
    rintro ys l m k rfl hy
    exact hy
  | cons x xs ih =>
    rintro ys l m k ⟨l', hx, hxs⟩ hy
    exact ⟨l', hx, ih hxs hy⟩

theorem moreTo_singleton {b : Byte} {l m : LineState} (h : respStep cfg b l = (.more, m)) : moreTo cfg [b] l m :=
  ⟨m, h, rfl⟩

theorem LineState.storeTerm_mode_cap (b : Byte) (l : LineState) :
    (l.storeTerm b).mode = l.mode ∧ (l.storeTerm b).cap = l.cap := by
  rw [LineState.storeTerm]
  split <;> exact ⟨rfl, rfl⟩

theorem LineState.unknown_mode_cap (l : LineState) : l.unknown.mode = l.mode ∧ l.unknown.cap = l.cap := by
  obtain ⟨hmode, hcap⟩ := (l.storeTerm chCR).storeTerm_mode_cap chLF
  obtain ⟨hmode', hcap'⟩ := l.storeTerm_mode_cap chCR
  rw [LineState.unknown]
  split
  · exact ⟨hmode.trans hmode', hcap.trans hcap'⟩
  · exact ⟨rfl, rfl⟩
  · exact ⟨rfl, rfl⟩

theorem LineState.store_mode_cap (n : Nat) (b : Byte) (l : LineState) :
    (l.store n b).mode = l.mode ∧ (l.store n b).cap = l.cap := by
  rw [LineState.store]
  split
  · exact ⟨rfl, rfl⟩
  · split
    · exact ⟨rfl, rfl⟩
    · split <;> exact ⟨rfl, rfl⟩

/-- RESP_STEP changes neither the mode of the read nor the size of the buffer. -/
theorem respStep_mode_cap (c : Byte) (l : LineState) :
    (respStep cfg c l).2.mode = l.mode ∧ (respStep cfg c l).2.cap = l.cap := by
  rw [respStep]
  split
  · split
    · exact ⟨rfl, rfl⟩
    · split
      · exact ⟨rfl, rfl⟩
      · split
        · exact ⟨rfl, rfl⟩
        · exact l.unknown_mode_cap
  · exact l.store_mode_cap _ c

theorem moreTo.keeps (bs : List Byte) : ∀ {l m : LineState}, moreTo cfg bs l m → LineState.Ok cfg l →
    LineState.Ok cfg m ∧ m.mode = l.mode ∧ m.cap = l.cap := by
  induction bs with
  | nil =>
    rintro l m rfl hok
    exact ⟨hok, rfl, rfl⟩
  | cons b bs ih =>
    rintro l m ⟨l', hb, hbs⟩ hok
    obtain ⟨hmode, hcap⟩ := respStep_mode_cap (cfg := cfg) b l
    have hnext := hok.respStep b
    rw [hb] at hmode hcap hnext
    obtain ⟨hok', hmode', hcap'⟩ := ih hbs hnext
    exact ⟨hok', hmode'.trans hmode, hcap'.trans hcap⟩

/-- The answers of RESP_STEP one after the other, as runs of the operation give them. -/
theorem moreTo_of_feedLine (bs : List Byte) : ∀ s : State,
    (∀ k, k < bs.length → (feedLine (bs.take (k + 1)) s).result = some (.lineStep .more)) →
    moreTo s.cfg bs s.line (feedLine bs s).line := by
  induction bs with
  | nil => exact fun s _ => rfl
  | cons b bs ih =>
    intro s h
    have hb : (respStep s.cfg b s.line).1 = .more := by
      have hfirst := h 0 (Nat.succ_pos _)
      simpa [feedLine, after_respStep] using hfirst
    exact ⟨(respStep s.cfg b s.line).2, Prod.ext hb rfl, ih (after (.respStep b) s) fun k hk =>
      h (k + 1) (Nat.succ_lt_succ hk)⟩

end

/-! ## The effect of the code, whatever else the state holds (43 R301) -/

theorem responseEffect_withEventsOf (name : RespName) (args : List Cid) (t s : State) :
    responseEffect name args (t.withEventsOf s) = t.withEventsOf (responseEffect name args s) := by
  cases name with
  | linkLost => exact disassocCascade_withEventsOf t s
  | conSuccess => exact connConnect_withEventsOf t s _ _ _ _ _
  | _ => rfl

/-- The operation that has the effect of the code. -/
def afterEffect (name : RespName) (args : List Cid) (s : State) : State :=
  if name = .linkLost then after .disassocCascade s
  else if name = .conSuccess then after (.connConnect (args.headD 0) ⟨0, 0, 0, 0⟩ 0 0 false) s else s

theorem afterEffect_eq (name : RespName) (args : List Cid) (s : State) :
    ∃ r, afterEffect name args s = { responseEffect name args s with result := r } := by
  unfold afterEffect
  split_ifs with hlost hcon
  · subst hlost
    exact ⟨_, after_of_exec (exec_disassocCascade s)⟩
  · subst hcon
    exact ⟨_, after_of_exec (exec_connConnect _ _ _ _ _ s)⟩
  · refine ⟨s.result, ?_⟩
    rw [responseEffect]
    · exact fun h => hlost h
    · exact fun h => hcon h

/-- The end of the read: the effect on the state as it was, the link as it is now. -/
theorem responseEffect_endResponse (name : RespName) (args : List Cid) (record : List Byte) (s : State) (env : Env)
    (trace : List LinkEvent) (line : LineState) (activity : Option Activity) (r : Option Response) :
    (responseEffect name args { s with
        env := env, trace := trace, line := line, activity := activity, result := r }).endResponse record =
      { afterEffect name args s with
        env := env
        trace := trace
        line := LineState.fresh .discard s.cfg.lineBufInternal
        activity := none
        result := some (.record record) } := by
  obtain ⟨r', hu⟩ := afterEffect_eq name args s
  have hleft := responseEffect_withEventsOf name args
    { s with env := env, trace := trace, line := line, activity := activity, result := r } s
  have hself : responseEffect name args s = s.withEventsOf (responseEffect name args s) :=
    responseEffect_withEventsOf name args s s
  rw [hu, hself]
  exact congrArg (State.endResponse · record) hleft

/-! ## One pass for each byte (43 R303) -/

section
variable {s : State} {expectOk : Bool} {rest : List (Option Byte)}

theorem passResponse_line {b : Byte} (hm : s.linkMode = .stream) (hu : s.unrecoverable = false)
    (hrx : s.rxState = .idle) (hb : b ≠ s.cfg.escChar) (hq : s.env.linkReads = some b :: rest) :
    passResponse expectOk s = responseLine expectOk b (s.afterRead (some b) rest) := by
  have hline : rxProcess b (s.afterRead (some b) rest) = (.line b, s.afterRead (some b) rest) := by
    rw [rxProcess_idle b (s := s.afterRead (some b) rest) hrx, rxIdle]
    exact if_neg hb
  rw [passResponse, codecRecv_stream_script hu hm hq]
  dsimp only
  rw [if_neg (by simp [State.afterRead, hu]), hline]

theorem responseLine_more {b : Byte} {l : LineState} (h : respStep s.cfg b s.line = (.more, l)) :
    responseLine expectOk b s = { s with line := l } := by
  rw [responseLine, h]

theorem responseLine_done {b : Byte} {l : LineState} {c : Nat} {name : RespName} {args : List Cid}
    (h : respStep s.cfg b s.line = (.done c name args, l)) :
    responseLine expectOk b s = responseDone expectOk c name args { s with line := l } := by
  rw [responseLine, h]

end

/-- The bytes after which RESP_STEP goes on are one pass each. -/
theorem runActivity_more (bs : List Byte) {expectOk : Bool} {rest : List (Option Byte)} {l : LineState} :
    ∀ {s : State}, s.activity = some (.response expectOk) → s.linkMode = .stream → s.unrecoverable = false →
    s.rxState = .idle → (∀ b ∈ bs, b ≠ s.cfg.escChar) → s.env.linkReads = bs.map some ++ rest →
    moreTo s.cfg bs s.line l → ∀ n,
    runActivity (n + bs.length) s = runActivity n { s.afterReads bs rest with line := l } := by
  induction bs with
  | nil =>
    rintro s - - - - - hq rfl n
    have hrest : rest = s.env.linkReads := hq.symm
    rw [State.afterReads, hrest]
    rfl
  | cons b bs ih =>
    rintro s ha hm hu hrx hesc hq ⟨l', hb, hbs⟩ n
    have hpass : passResponse expectOk s = { s.afterRead (some b) (bs.map some ++ rest) with line := l' } :=
      (passResponse_line hm hu hrx (hesc b List.mem_cons_self) hq).trans
        (responseLine_more (s := s.afterRead (some b) (bs.map some ++ rest)) hb)
    rw [List.length_cons, ← Nat.add_assoc, runActivity_succ _ _ _ ha, pass, hpass,
      ih (s := { s.afterRead (some b) (bs.map some ++ rest) with line := l' }) ha hm hu hrx
        (fun b hb => hesc b (List.mem_cons_of_mem _ hb)) rfl hbs]
    simp [State.afterReads, State.afterRead]

/-- What the operation returns behind OK. -/
def replyOutputs (expectOk : Bool) (l : LineState) (c : Nat) (name : RespName) (args : List Cid) : List Byte :=
  if expectOk then [flagByte (decide (name = .success))] else responseRecord l c args

section
variable {s : State} {expectOk : Bool} {bs : List Byte} {e : Byte} {rest : List (Option Byte)} {l m : LineState} {c : Nat}
    {name : RespName} {args : List Cid}

/-- The bytes of a reply to its end are one pass each, and the last one ends the operation. -/
theorem runActivity_reply (ha : s.activity = some (.response expectOk)) (hm : s.linkMode = .stream)
    (hu : s.unrecoverable = false) (hrx : s.rxState = .idle) (hesc : ∀ b ∈ bs ++ [e], b ≠ s.cfg.escChar)
    (hq : s.env.linkReads = (bs ++ [e]).map some ++ rest) (hmore : moreTo s.cfg bs s.line l)
    (hdone : respStep s.cfg e l = (.done c name args, m)) (n : Nat) :
    runActivity (n + (bs ++ [e]).length) s =
      runActivity n (responseDone expectOk c name args { s.afterReads (bs ++ [e]) rest with line := m }) := by
  have hfirst := runActivity_more (rest := some e :: rest) bs ha hm hu hrx
    (fun b hb => hesc b (List.mem_append_left _ hb)) (by simpa using hq) hmore (n + 1)
  have hpass : passResponse expectOk { s.afterReads bs (some e :: rest) with line := l } =
      responseDone expectOk c name args { s.afterReads (bs ++ [e]) rest with line := m } := by
    rw [passResponse_line (s := { s.afterReads bs (some e :: rest) with line := l }) hm hu hrx (hesc e (by simp)) rfl]
    refine (responseLine_done (s := ({ s.afterReads bs (some e :: rest) with line := l } : State).afterRead (some e) rest)
      hdone).trans ?_
    simp [State.afterReads, State.afterRead]
  rw [List.length_append, List.length_singleton, Nat.add_comm bs.length, ← Nat.add_assoc, hfirst]
  exact (runActivity_succ n { s.afterReads bs (some e :: rest) with line := l } (.response expectOk) ha).trans
    (congrArg (runActivity n) hpass)

theorem responseDone_eq (s : State) (env : Env) (trace : List LinkEvent) (line : LineState)
    (activity : Option Activity) (r : Option Response) :
    responseDone expectOk c name args { s with
        env := env, trace := trace, line := line, activity := activity, result := r } =
      { afterEffect name args s with
        env := env
        trace := trace
        line := LineState.fresh .discard s.cfg.lineBufInternal
        activity := none
        result := some (.record (0x00 :: replyOutputs expectOk line c name args)) } :=
  responseEffect_endResponse name args _ s env trace line activity r

/-- READ_RESPONSE reads the reply to its end. -/
theorem exec_readResponse_reply (ha : s.alive) (hm : s.linkMode = .stream) (hrx : s.rxState = .idle)
    {rmode : Byte} {n : Half} {mode : RMode} (ho : rmodeOperand rmode = some mode)
    (hcap : ¬ (mode = RMode.raw ∧ n.toNat < s.cfg.maxRespLen + 1)) (hesc : ∀ b ∈ bs ++ [e], b ≠ s.cfg.escChar)
    (hq : s.env.linkReads = (bs ++ [e]).map some ++ rest)
    (hmore : moreTo s.cfg bs (LineState.fresh mode (if mode = RMode.raw then n.toNat else s.cfg.lineBufInternal)) l)
    (hdone : respStep s.cfg e l = (.done c name args, m)) :
    exec (.readResponse rmode n) s = .next { afterEffect name args s with
      env := { s.env with linkReads := rest }
      trace := ((bs ++ [e]).map fun b => LinkEvent.read (some b)).reverse ++ s.trace
      line := LineState.fresh .discard s.cfg.lineBufInternal
      activity := none
      result := some (.record (0x00 :: responseRecord m c args)) } := by
  rw [exec_readResponse ha ho hcap]
  refine congrArg Host.Outcome.next (State.resume_eq (k := (bs ++ [e]).length) ?_ (fun k => ?_) rfl)
  · have hlen := congrArg List.length hq
    simp only [List.length_append, List.length_map] at hlen
    simp only [State.budget, State.beginActivity, Env.answersLeft, List.length_append]
    omega
  · have hrun := runActivity_reply (s := ({ s with
      line := LineState.fresh mode (if mode = RMode.raw then n.toNat else s.cfg.lineBufInternal) } : State).beginActivity
        (.response false)) rfl hm ha.2 hrx hesc hq hmore hdone k
    exact hrun.trans (congrArg (runActivity k) (responseDone_eq s _ _ m _ _))

/-- SEND_COMMAND_EXPECT_OK sends its line and reads the reply to its end. -/
theorem exec_sendCommandExpectOk_reply {text : List Byte} (ha : s.alive) (hm : s.linkMode = .stream)
    (hrx : s.rxState = .idle) (hesc : ∀ b ∈ bs ++ [e], b ≠ s.cfg.escChar)
    (hq : s.env.linkReads = (bs ++ [e]).map some ++ rest)
    (hmore : moreTo s.cfg bs (LineState.fresh .discard s.cfg.lineBufInternal) l)
    (hdone : respStep s.cfg e l = (.done c name args, m)) :
    exec (.sendCommandExpectOk text) s = .next { afterEffect name args s with
      env := { s.env with linkReads := rest }
      trace := ((bs ++ [e]).map fun b => LinkEvent.read (some b)).reverse
        ++ (((text ++ [chCR, chLF]).map LinkEvent.write).reverse ++ s.trace)
      line := LineState.fresh .discard s.cfg.lineBufInternal
      activity := none
      result := some (.record [0x00, flagByte (decide (name = .success))]) } := by
  have hexec : exec (.sendCommandExpectOk text) s =
      .next (s.beginActivity (.send (text ++ [chCR, chLF]) .commandExpectOk)).resume :=
    exec_of_alive (f := fun s => (s.beginActivity (.send (text ++ [chCR, chLF]) .commandExpectOk)).resume) ha rfl
  have hpass := passSend_stream (text ++ [chCR, chLF]) .commandExpectOk
    (s.beginActivity (.send (text ++ [chCR, chLF]) .commandExpectOk)) hm ha.2
  rw [hexec]
  refine congrArg Host.Outcome.next (State.resume_eq (k := (bs ++ [e]).length + 1) ?_ (fun k => ?_) rfl)
  · have hlen := congrArg List.length hq
    simp only [List.length_append, List.length_map] at hlen
    simp only [State.budget, State.beginActivity, Env.answersLeft, List.length_append]
    omega
  · rw [← Nat.add_assoc, runActivity_succ _ _ (.send (text ++ [chCR, chLF]) .commandExpectOk) rfl, pass, hpass]
    have hrun := runActivity_reply (expectOk := true) (s := { s with
      trace := ((text ++ [chCR, chLF]).map LinkEvent.write).reverse ++ s.trace
      line := LineState.fresh .discard s.cfg.lineBufInternal
      activity := some (.response true)
      result := none }) rfl hm ha.2 hrx hesc hq hmore hdone k
    exact hrun.trans (congrArg (runActivity k) (responseDone_eq s _ _ m _ _))

end

/-! ## The length of a code line (43 R302) -/

theorem codeText_length (c : Nat) : (codeText c).length = codeDigits c := by
  rw [codeText, codeDigits]
  split <;> rfl

theorem argText_length (chars : List Byte) : (argText chars).length = 2 * chars.length := by
  induction chars with
  | nil => rfl
  | cons ch chars ih =>
    rw [argText_cons, List.length_cons, List.length_cons, ih, List.length_cons]
    omega

theorem le_foldl_max {α : Type} (g : α → Nat) (rows : List α) : ∀ m : Nat,
    m ≤ rows.foldl (fun m r => max m (g r)) m ∧ ∀ r ∈ rows, g r ≤ rows.foldl (fun m r => max m (g r)) m := by
  induction rows with
  | nil => exact fun m => ⟨Nat.le_refl m, fun r hr => absurd hr List.not_mem_nil⟩
  | cons q rows ih =>
    intro m
    obtain ⟨hacc, hrows⟩ := ih (max m (g q))
    refine ⟨(Nat.le_max_left _ _).trans hacc, fun r hr => ?_⟩
    rcases List.mem_cons.1 hr with rfl | hr
    · exact (Nat.le_max_right _ _).trans hacc
    · exact hrows r hr

/-- No line longer than MAX_RESP_LEN is a code. -/
theorem length_le_maxRespLen {cfg : Config} (hv : cfg.valid = true) {text : List Byte} {c : Nat} {name : RespName}
    {args : List Cid} (hk : classifyLine cfg text = .code c name args) : text.length ≤ cfg.maxRespLen := by
  by_cases hok : text = textOK
  · rw [hok]
    exact Config.maxRespLen_ge cfg
  · obtain ⟨argc, chars, hmem, -, rfl, hlen, -⟩ := (classifyLine_eq_code_iff_text hv hok).1 hk
    have hrow := (le_foldl_max (fun r : RespRow => codeDigits r.code + 2 * r.argc) cfg.respTable 2).2 _ hmem
    rw [List.length_append, codeText_length, argText_length, hlen]
    exact hrow

/-! ## Whole lines (43 R292 to R294) -/

section
variable {cfg : Config} {l : LineState} {text ends : List Byte}

theorem moreTo_store (text : List Byte) : ∀ {l : LineState}, (∀ b ∈ text, b ≠ chCR ∧ b ≠ chLF) → l.dropLine = false →
    l.buf.length + text.length ≤ l.cap → moreTo cfg text l { l with buf := l.buf ++ text } := by
  induction text with
  | nil =>
    intro l _ _ _
    show { l with buf := l.buf ++ [] } = l
    rw [List.append_nil]
  | cons b text ih =>
    intro l htext hd hroom
    rw [List.length_cons] at hroom
    have hb := htext b List.mem_cons_self
    have hstore : l.store cfg.maxRespLen b = { l with buf := l.buf ++ [b] } := by
      rw [LineState.store, if_neg (by simp [hd]), if_pos (by omega)]
    refine ⟨_, (respStep_of_not_terminator hb.1 hb.2).trans (by rw [hstore]), ?_⟩
    have hrest := ih (l := { l with buf := l.buf ++ [b] }) (fun b hb => htext b (List.mem_cons_of_mem _ hb)) hd (by
      simp only [List.length_append, List.length_singleton]
      omega)
    simpa using hrest

/-- Bytes of a line that is too long already are dropped. -/
theorem moreTo_dropped (text : List Byte) (htext : ∀ b ∈ text, b ≠ chCR ∧ b ≠ chLF) (hd : l.dropLine = true) :
    moreTo cfg text l l := by
  induction text with
  | nil => rfl
  | cons b text ih =>
    have hb := htext b List.mem_cons_self
    refine ⟨l, (respStep_of_not_terminator hb.1 hb.2).trans ?_, ih fun b hb => htext b (List.mem_cons_of_mem _ hb)⟩
    rw [LineState.store, if_pos hd]

/-- Terminators with no line before them (43 R294). -/
theorem moreTo_terminators (ends : List Byte) (hends : ∀ b ∈ ends, b = chCR ∨ b = chLF) (hd : l.dropLine = false)
    (hl : l.buf.length = l.start) : moreTo cfg ends l l := by
  induction ends with
  | nil => rfl
  | cons b ends ih =>
    exact ⟨l, respStep_empty (hends b List.mem_cons_self) (by simp [hd]) hl,
      ih fun b hb => hends b (List.mem_cons_of_mem _ hb)⟩

/-- A line's first terminator does all, and the rest of them nothing. -/
theorem moreTo_ends {m : LineState} (hends : ∀ b ∈ ends, b = chCR ∨ b = chLF) (hne : ends ≠ [])
    (hfirst : ∀ b, b = chCR ∨ b = chLF → respStep cfg b l = (.more, m)) (hd : m.dropLine = false)
    (hm : m.buf.length = m.start) : moreTo cfg ends l m := by
  cases ends with
  | nil => exact absurd rfl hne
  | cons b ends =>
    exact ⟨m, hfirst b (hends b List.mem_cons_self),
      moreTo_terminators ends (fun b hb => hends b (List.mem_cons_of_mem _ hb)) hd hm⟩

/-- A line begins behind the bytes that are kept. -/
structure LineState.betweenLines (l : LineState) : Prop where
  dropLine : l.dropLine = false
  start : l.buf.length = l.start

/-- A line that the buffer has room for and that is no code. -/
theorem moreTo_unknown (hl : l.betweenLines) (htext : ∀ b ∈ text, b ≠ chCR ∧ b ≠ chLF) (hne : text ≠ [])
    (hroom : l.buf.length + text.length ≤ l.cap) (hk : classifyLine cfg text = .unknown)
    (hends : ∀ b ∈ ends, b = chCR ∨ b = chLF) (hends_ne : ends ≠ [])
    {m : LineState} (hunknown : ({ l with buf := l.buf ++ text } : LineState).unknown = m) (hm : m.betweenLines) :
    moreTo cfg (text ++ ends) l m := by
  refine (moreTo_store text htext hl.dropLine hroom).append text (moreTo_ends hends hends_ne (fun b hb => ?_) hm.1 hm.2)
  have hpos := List.length_pos_iff.2 hne
  rw [respStep_unknown hb (by simp [hl.dropLine]) (by
    simp only [List.length_append, ← hl.start]
    omega) (by
    simp only [← hl.start, List.drop_left]
    exact hk), hunknown]

/-- The code line and its terminator end the reply. -/
theorem respStep_codeLine (hl : l.betweenLines) {e : Byte} (he : e = chCR ∨ e = chLF) {c : Nat} {name : RespName}
    {args : List Cid} (hk : classifyLine cfg text = .code c name args) :
    respStep cfg e { l with buf := l.buf ++ text } = (.done c name args, l) := by
  have hne : text ≠ [] := fun hnil => by
    subst hnil
    cases hk
  have hpos := List.length_pos_iff.2 hne
  rw [respStep_code he (by simp [hl.dropLine]) (by
    simp only [List.length_append, ← hl.start]
    omega) (by
    simp only [← hl.start, List.drop_left]
    exact hk)]
  obtain ⟨-, hstart⟩ := hl
  cases l
  dsimp only at hstart ⊢
  rw [← hstart, List.take_left]

end

/-! ## The lines before the code line, in a buffer with room for them (43 R303 to R305) -/

/-- Unknown lines as RAW mode returns them. -/
def terminated (lines : List (List Byte)) : List Byte := lines.flatMap fun line => line ++ [chCR, chLF]

/-- The line state after some unknown lines. -/
def LineState.afterLines (mode : RMode) (cap : Nat) (lines : List (List Byte)) : LineState where
  mode := mode
  cap := cap
  buf := if mode = .raw then terminated lines else []
  start := if mode = .raw then (terminated lines).length else 0
  dropLine := false
  truncated := false
  lines := if mode = .callback then lines else []

theorem LineState.afterLines_nil (mode : RMode) (cap : Nat) :
    LineState.afterLines mode cap [] = LineState.fresh mode cap := by
  cases mode <;> rfl

theorem LineState.afterLines_between (mode : RMode) (cap : Nat) (lines : List (List Byte)) :
    (LineState.afterLines mode cap lines).betweenLines := by
  refine ⟨rfl, ?_⟩
  rw [LineState.afterLines]
  split <;> rfl

theorem LineState.afterLines_raw (cap : Nat) (lines : List (List Byte)) : LineState.afterLines .raw cap lines =
    ⟨.raw, cap, terminated lines, (terminated lines).length, false, false, []⟩ := rfl

theorem LineState.afterLines_discard (cap : Nat) (lines : List (List Byte)) :
    LineState.afterLines .discard cap lines = LineState.fresh .discard cap := rfl

theorem LineState.afterLines_callback (cap : Nat) (lines : List (List Byte)) :
    LineState.afterLines .callback cap lines = ⟨.callback, cap, [], 0, false, false, lines⟩ := rfl

theorem terminated_append (xs ys : List (List Byte)) : terminated (xs ++ ys) = terminated xs ++ terminated ys :=
  List.flatMap_append

theorem terminated_snoc (lines : List (List Byte)) (text : List Byte) :
    terminated (lines ++ [text]) = terminated lines ++ text ++ [chCR, chLF] := by
  rw [terminated_append, List.append_assoc]
  exact congrArg (terminated lines ++ ·) (List.flatMap_singleton _ text)

/-- Room for the lines: all of them in RAW mode, each by itself in the other modes. -/
def linesFit (mode : RMode) (cap : Nat) (lines : List (List Byte)) : Prop :=
  match mode with
  | .raw => (terminated lines).length ≤ cap
  | _ => ∀ line ∈ lines, line.length ≤ cap

section
variable {mode : RMode} {cap : Nat} {lines : List (List Byte)} {text : List Byte}

theorem linesFit.of_append {more : List (List Byte)} (h : linesFit mode cap (lines ++ more)) :
    linesFit mode cap lines := by
  cases mode with
  | raw =>
    have hlen : (terminated (lines ++ more)).length ≤ cap := h
    rw [terminated_append, List.length_append] at hlen
    exact (Nat.le_add_right _ _).trans hlen
  | discard => exact fun line hline => h line (List.mem_append_left _ hline)
  | callback => exact fun line hline => h line (List.mem_append_left _ hline)

theorem linesFit.room (h : linesFit mode cap (lines ++ [text])) :
    (LineState.afterLines mode cap lines).buf.length + text.length ≤ cap := by
  have hlast : text ∈ lines ++ [text] := List.mem_append_right _ List.mem_cons_self
  cases mode with
  | raw =>
    have hlen : (terminated (lines ++ [text])).length ≤ cap := h
    rw [terminated_snoc, List.length_append, List.length_append] at hlen
    exact (Nat.le_add_right _ _).trans hlen
  | discard => exact (Nat.zero_add _).le.trans (h text hlast)
  | callback => exact (Nat.zero_add _).le.trans (h text hlast)

/-- What an unknown line leaves, in each mode. -/
theorem LineState.unknown_afterLines {cfg : Config} (h : linesFit mode cap (lines ++ [text]))
    (hcap : cfg.maxRespLen + 1 ≤ cap) :
    ({ LineState.afterLines mode cap lines with
      buf := (LineState.afterLines mode cap lines).buf ++ text } : LineState).unknown =
      LineState.afterLines mode cap (lines ++ [text]) := by
  cases mode with
  | raw =>
    have hlen : (terminated (lines ++ [text])).length ≤ cap := h
    have hroom : (terminated lines ++ text).length + 2 ≤ cap := by
      rw [terminated_snoc, List.length_append] at hlen
      exact hlen
    have hok : LineState.Ok cfg
        ⟨.raw, cap, terminated lines ++ text, (terminated lines).length, false, false, []⟩ := by
      refine ⟨?_, (Nat.le_add_right _ 2).trans hroom, hcap, fun hm => absurd rfl hm, fun _ => rfl⟩
      rw [List.length_append]
      exact Nat.le_add_right _ _
    have hnone : (terminated lines ++ text).length + 2 - cap = 0 := by omega
    have hfits : ¬ cap < (terminated lines ++ text).length + 2 := by omega
    rw [afterLines_raw, afterLines_raw, hok.unknown_raw rfl, terminated_snoc]
    simp only [hnone, hfits, List.drop_zero, decide_false, Bool.or_false]
    rfl
  | discard => exact unknown_discard rfl
  | callback => exact unknown_callback rfl

end

/-- The lines of a reply before its code line, each with its terminators. -/
def replyLines (cfg : Config) (earlier : List (List Byte × List Byte)) : Prop :=
  ∀ p ∈ earlier, isLineText cfg p.1 ∧ (p.1 = [] ∨ classifyLine cfg p.1 = .unknown)
    ∧ p.2 ≠ [] ∧ ∀ b ∈ p.2, (b = chCR ∨ b = chLF) ∧ b ≠ cfg.escChar

/-- The lines of them that are not empty. -/
def textsOf (earlier : List (List Byte × List Byte)) : List (List Byte) :=
  (earlier.map Prod.fst).filter fun line => decide (line ≠ [])

/-- Their bytes. -/
def bytesOf (earlier : List (List Byte × List Byte)) : List Byte := earlier.flatMap fun p => p.1 ++ p.2

section
variable {cfg : Config} {mode : RMode} {cap : Nat}

theorem moreTo_afterLines (hcap : cfg.maxRespLen + 1 ≤ cap) (earlier : List (List Byte × List Byte)) :
    ∀ {lines : List (List Byte)}, replyLines cfg earlier → linesFit mode cap (lines ++ textsOf earlier) →
    moreTo cfg (bytesOf earlier) (LineState.afterLines mode cap lines)
      (LineState.afterLines mode cap (lines ++ textsOf earlier)) := by
  induction earlier with
  | nil =>
    intro lines _ _
    show LineState.afterLines mode cap (lines ++ []) = LineState.afterLines mode cap lines
    rw [List.append_nil]
  | cons p earlier ih =>
    intro lines hlines hfit
    obtain ⟨htext, hclass, hends_ne, hends⟩ := hlines p List.mem_cons_self
    have hrest : replyLines cfg earlier := fun q hq => hlines q (List.mem_cons_of_mem _ hq)
    have hbetween := LineState.afterLines_between mode cap lines
    by_cases hempty : p.1 = []
    · have hsame : textsOf (p :: earlier) = textsOf earlier := List.filter_cons_of_neg (by simp [hempty])
      rw [hsame] at hfit ⊢
      refine moreTo.append (p.1 ++ p.2) ?_ (ih hrest hfit)
      rw [hempty]
      exact moreTo_terminators p.2 (fun b hb => (hends b hb).1) hbetween.dropLine hbetween.start
    · have hkept : textsOf (p :: earlier) = p.1 :: textsOf earlier := List.filter_cons_of_pos (by simp [hempty])
      have happend : lines ++ p.1 :: textsOf earlier = (lines ++ [p.1]) ++ textsOf earlier := by simp
      rw [hkept, happend] at hfit ⊢
      refine moreTo.append (p.1 ++ p.2) ?_ (ih hrest hfit)
      exact moreTo_unknown hbetween (fun b hb => (htext b hb).2) hempty hfit.of_append.room
        (hclass.resolve_left hempty) (fun b hb => (hends b hb).1) hends_ne
        (LineState.unknown_afterLines hfit.of_append hcap) (LineState.afterLines_between _ _ _)

theorem replyLines.ne_escChar {earlier : List (List Byte × List Byte)} (h : replyLines cfg earlier) :
    ∀ b ∈ bytesOf earlier, b ≠ cfg.escChar := by
  intro b hb
  obtain ⟨p, hp, hb⟩ := List.mem_flatMap.1 hb
  obtain ⟨htext, -, -, hends⟩ := h p hp
  rcases List.mem_append.1 hb with hb | hb
  · exact (htext b hb).1
  · exact (hends b hb).2

/-- The bytes of a reply: the lines before the code line, the code line and one terminator. -/
theorem reply_ne_escChar {earlier : List (List Byte × List Byte)} {text : List Byte} {e : Byte}
    (h : replyLines cfg earlier) (htext : isLineText cfg text) (he : e ≠ cfg.escChar) :
    ∀ b ∈ bytesOf earlier ++ text ++ [e], b ≠ cfg.escChar := by
  intro b hb
  rcases List.mem_append.1 hb with hb | hb
  · rcases List.mem_append.1 hb with hb | hb
    · exact h.ne_escChar b hb
    · exact (htext b hb).1
  · rw [List.mem_singleton.1 hb]
    exact he

end

/-! ## SEND_COMMAND_EXPECT_OK: lines of any length are skipped (43 R292, R308) -/

/-- The line state between lines in DISCARD mode. -/
def LineState.discarding (cap : Nat) (truncated : Bool) : LineState := ⟨.discard, cap, [], 0, false, truncated, []⟩

section
variable {cfg : Config} {cap : Nat} {truncated : Bool} {text ends : List Byte}

theorem LineState.discarding_between : (LineState.discarding cap truncated).betweenLines := ⟨rfl, rfl⟩

/-- A line longer than the buffer is dropped whole. -/
theorem moreTo_overlong (hcap : cfg.maxRespLen + 1 ≤ cap) (htext : ∀ b ∈ text, b ≠ chCR ∧ b ≠ chLF)
    (hlong : cap < text.length) (hends : ∀ b ∈ ends, b = chCR ∨ b = chLF) (hne : ends ≠ []) :
    moreTo cfg (text ++ ends) (LineState.discarding cap truncated) (LineState.discarding cap true) := by
  have hfull : (text.take cap).length = cap := List.length_take_of_le hlong.le
  obtain ⟨b, beyond, hbeyond⟩ := List.exists_cons_of_length_pos (l := text.drop cap) (by rw [List.length_drop]; omega)
  have hsplit : text = text.take cap ++ b :: beyond := by rw [← hbeyond, List.take_append_drop]
  have htake : ∀ x ∈ text.take cap, x ≠ chCR ∧ x ≠ chLF := fun x hx => htext x (List.mem_of_mem_take hx)
  have hdrop : ∀ x ∈ b :: beyond, x ≠ chCR ∧ x ≠ chLF := fun x hx => htext x (List.mem_of_mem_drop (hbeyond ▸ hx))
  have hstored : moreTo cfg (text.take cap) (LineState.discarding cap truncated)
      ⟨.discard, cap, text.take cap, 0, false, truncated, []⟩ :=
    moreTo_store (text.take cap) htake rfl (by rw [hfull]; exact (Nat.zero_add cap).le)
  have hdropped : respStep cfg b ⟨.discard, cap, text.take cap, 0, false, truncated, []⟩ =
      (.more, ⟨.discard, cap, [], 0, true, true, []⟩) := by
    rw [respStep_of_not_terminator (hdrop b List.mem_cons_self).1 (hdrop b List.mem_cons_self).2, LineState.store,
      if_neg Bool.false_ne_true, if_neg (by rw [hfull]; exact Nat.lt_irrefl cap),
      if_pos (by rw [LineState.current, hfull]; exact Nat.lt_of_succ_le hcap)]
    rfl
  have hrest : moreTo cfg beyond ⟨.discard, cap, [], 0, true, true, []⟩ ⟨.discard, cap, [], 0, true, true, []⟩ :=
    moreTo_dropped beyond (fun x hx => hdrop x (List.mem_cons_of_mem _ hx)) rfl
  have hend : moreTo cfg ends ⟨.discard, cap, [], 0, true, true, []⟩ (LineState.discarding cap true) :=
    moreTo_ends hends hne (fun x hx => respStep_overlong hx rfl) rfl rfl
  rw [hsplit, List.append_assoc]
  exact hstored.append _ ⟨_, hdropped, hrest.append beyond hend⟩

theorem moreTo_discarding (hcap : cfg.maxRespLen + 1 ≤ cap) (earlier : List (List Byte × List Byte)) :
    ∀ {truncated : Bool}, replyLines cfg earlier →
    ∃ truncated', moreTo cfg (bytesOf earlier) (LineState.discarding cap truncated)
      (LineState.discarding cap truncated') := by
  induction earlier with
  | nil => exact fun {truncated} _ => ⟨truncated, rfl⟩
  | cons p earlier ih =>
    intro truncated hlines
    obtain ⟨htext, hclass, hends_ne, hends⟩ := hlines p List.mem_cons_self
    have hends := fun b hb => (hends b hb).1
    have htext := fun b hb => (htext b hb).2
    have hline : ∃ truncated', moreTo cfg (p.1 ++ p.2) (LineState.discarding cap truncated)
        (LineState.discarding cap truncated') := by
      by_cases hlong : cap < p.1.length
      · exact ⟨true, moreTo_overlong hcap htext hlong hends hends_ne⟩
      · refine ⟨truncated, ?_⟩
        by_cases hempty : p.1 = []
        · rw [hempty]
          exact moreTo_terminators p.2 hends rfl rfl
        · exact moreTo_unknown LineState.discarding_between htext hempty
            ((Nat.zero_add _).le.trans (Nat.le_of_not_lt hlong)) (hclass.resolve_left hempty) hends hends_ne
            (LineState.unknown_discard rfl) LineState.discarding_between
    obtain ⟨t, hp⟩ := hline
    obtain ⟨t', hrest⟩ := ih (truncated := t) fun q hq => hlines q (List.mem_cons_of_mem _ hq)
    exact ⟨t', hp.append _ hrest⟩

end

theorem flagByte_decide (p : Prop) [Decidable p] : flagByte (decide p) = if p then 1 else 0 := by
  rw [flagByte]
  simp only [decide_eq_true_eq]

/-- Settles O40: the line goes out, the lines before the code line are skipped, and the code ends the operation. -/
theorem expectOkComparesTheReply : Obligations.ExpectOkComparesTheReply := by
  intro text reply e earlier c name args rest s hv ha hm hrx hlines hreply he hesc hk bytes hq u
  have hcap := Config.maxRespLen_lt_internal s.cfg hv
  have hlen := length_le_maxRespLen hv hk
  obtain ⟨truncated, hearlier⟩ := moreTo_discarding (truncated := false) hcap earlier hlines
  have hstored : moreTo s.cfg reply (LineState.discarding s.cfg.lineBufInternal truncated) _ :=
    moreTo_store reply (fun b hb => (hreply b hb).2) rfl ((Nat.zero_add _).le.trans (by
      show reply.length ≤ s.cfg.lineBufInternal
      omega))
  have hexec := exec_sendCommandExpectOk_reply (text := text) ha hm hrx (reply_ne_escChar hlines hreply hesc) hq
    (hearlier.append _ hstored) (respStep_codeLine LineState.discarding_between he hk)
  rw [hexec, ← List.append_assoc, flagByte_decide]
  rfl

/-! ## READ_RESPONSE in its three modes (43 R303, R305) -/

/-- The mode that the operand stands for. -/
def modeOf (rmode : Byte) : RMode := if rmode = 0 then .raw else if rmode = 1 then .discard else .callback

theorem modeOf_eq_raw_iff (rmode : Byte) : modeOf rmode = .raw ↔ rmode = 0 := by
  rw [modeOf]
  split_ifs with hraw hdiscard
  · exact iff_of_true rfl hraw
  · exact iff_of_false (by decide) hraw
  · exact iff_of_false (by decide) hraw

theorem rmode_cases {rmode : Byte} (h : rmode.toNat ≤ 2) : rmode = 0 ∨ rmode = 1 ∨ rmode = 2 := by bv_omega

theorem rmodeOperand_of_le {rmode : Byte} (h : rmode.toNat ≤ 2) : rmodeOperand rmode = some (modeOf rmode) := by
  rcases rmode_cases h with rfl | rfl | rfl <;> rfl

/-- The size of the buffer the read works in. -/
def readCap (cfg : Config) (rmode : Byte) (n : Half) : Nat := if rmode = 0 then n.toNat else cfg.lineBufInternal

theorem readCap_ge {cfg : Config} (hv : cfg.valid = true) {rmode : Byte} {n : Half}
    (hn : rmode = 0 → cfg.maxRespLen + 1 ≤ n.toNat) : cfg.maxRespLen + 1 ≤ readCap cfg rmode n := by
  rw [readCap]
  split
  · next hz => exact hn hz
  · exact Config.maxRespLen_lt_internal cfg hv

/-- A count as its two bytes. -/
def countOf (k : Nat) : List Byte := [BitVec.ofNat 8 k, BitVec.ofNat 8 (k / 256)]

/-- The record of an answered reply (43 R305). -/
def replyRecord (rmode : Byte) (c : Nat) (argc : Byte) (args : List Cid) (truncated : Byte) (out : List Byte)
    (lines : List (List Byte)) : List Byte :=
  [0x00, BitVec.ofNat 8 c, argc] ++ args.map (fun a => BitVec.ofNat 8 a.val) ++ [truncated]
    ++ (if rmode = 0 then countOf out.length ++ out else [0, 0])
    ++ (if rmode = 2 then countOf lines.length ++ lines.flatMap (fun line => countOf line.length ++ line) else [0, 0])

theorem flatMap_lineRecord {lines : List (List Byte)} (h : ∀ line ∈ lines, line.length < 65536) :
    lines.flatMap lineRecord = lines.flatMap fun line => countOf line.length ++ line := by
  refine List.flatMap_congr fun line hline => ?_
  rw [lineRecord, countBytes_of_lt _ (h line hline)]
  rfl

theorem responseRecord_eq {rmode : Byte} (hr : rmode.toNat ≤ 2) {l : LineState} (hm : l.mode = modeOf rmode) (c : Nat)
    (args : List Cid) (hout : rmode = 0 → (l.buf.take l.start).length < 65536)
    (hlines : rmode = 2 → l.lines.length < 65536 ∧ ∀ line ∈ l.lines, line.length < 65536) :
    0x00 :: responseRecord l c args = replyRecord rmode c (argcByte args.length) args
      (if l.truncated = true then 1 else 0) (l.buf.take l.start) l.lines := by
  have hzero : countBytes 0 = [0, 0] := countBytes_of_lt 0 (by decide)
  have hargs : args.map cidByte = args.map fun a => BitVec.ofNat 8 a.val := rfl
  have hflag : flagByte l.truncated = if l.truncated = true then 1 else 0 := rfl
  rw [responseRecord, replyRecord, hm, hargs, hflag]
  rcases rmode_cases hr with rfl | rfl | rfl
  · rw [show modeOf 0 = .raw from rfl]
    dsimp only
    rw [countBytes_of_lt _ (hout rfl)]
    simp [countOf, hzero]
  · rw [show modeOf 1 = .discard from rfl]
    dsimp only
    simp [hzero]
  · obtain ⟨hcount, hall⟩ := hlines rfl
    rw [show modeOf 2 = .callback from rfl]
    dsimp only
    rw [countBytes_of_lt _ hcount, flatMap_lineRecord hall]
    simp [countOf, hzero]

section
variable {s : State} {bs : List Byte} {e : Byte} {rest : List (Option Byte)} {l m : LineState} {c : Nat}
    {name : RespName} {args : List Cid} {rmode : Byte} {n : Half}

/-- READ_RESPONSE of a reply, with the record it answers. -/
theorem exec_readResponse_record (hv : s.cfg.valid = true) (ha : s.alive) (hm : s.linkMode = .stream)
    (hrx : s.rxState = .idle) (hr : rmode.toNat ≤ 2) (hn : rmode = 0 → s.cfg.maxRespLen + 1 ≤ n.toNat)
    (hesc : ∀ b ∈ bs ++ [e], b ≠ s.cfg.escChar) (hq : s.env.linkReads = (bs ++ [e]).map some ++ rest)
    (hmore : moreTo s.cfg bs (LineState.fresh (modeOf rmode) (readCap s.cfg rmode n)) l)
    (hdone : respStep s.cfg e l = (.done c name args, m))
    (hlines : rmode = 2 → m.lines.length < 65536 ∧ ∀ line ∈ m.lines, line.length < 65536) :
    exec (.readResponse rmode n) s = .next { afterEffect name args s with
      env := { s.env with linkReads := rest }
      trace := ((bs ++ [e]).map fun b => LinkEvent.read (some b)).reverse ++ s.trace
      line := LineState.fresh .discard s.cfg.lineBufInternal
      activity := none
      result := some (.record (replyRecord rmode c (argcByte args.length) args (if m.truncated = true then 1 else 0)
        (m.buf.take m.start) m.lines)) } := by
  obtain ⟨hok, hmode, hcap⟩ := hmore.keeps bs (LineState.fresh_ok _ _ _ (readCap_ge hv hn))
  obtain ⟨hmode', hcap'⟩ := respStep_mode_cap (cfg := s.cfg) e l
  have hok' := hok.respStep e
  rw [hdone] at hmode' hcap' hok'
  have hroom : m.buf.length ≤ readCap s.cfg rmode n := hok'.room.trans_eq (hcap'.trans hcap)
  have hout : rmode = 0 → (m.buf.take m.start).length < 65536 := fun hz => by
    have hn := n.isLt
    rw [readCap, if_pos hz] at hroom
    rw [List.length_take]
    omega
  rw [← responseRecord_eq hr (hmode'.trans hmode) c args hout hlines]
  have hnot : ¬ (modeOf rmode = .raw ∧ n.toNat < s.cfg.maxRespLen + 1) := fun ⟨hraw, hlt⟩ =>
    absurd (hn ((modeOf_eq_raw_iff rmode).1 hraw)) (Nat.not_le.2 hlt)
  refine exec_readResponse_reply ha hm hrx (rmodeOperand_of_le hr) hnot hesc hq ?_ hdone
  simpa only [modeOf_eq_raw_iff, readCap] using hmore

end

/-- Settles O37: unknown lines before the code line leave the line state after them, and any bytes RESP_STEP goes on
after the one it leaves. -/
theorem readResponseReadsTheReply : Obligations.ReadResponseReadsTheReply := by
  constructor
  case left =>
    intro rmode e n earlier text c name args rest s hv ha hm hrx hr hn hlines htext he hesc hk lines out count hroom
      hfits hcounts bytes hq u
    have hlen := length_le_maxRespLen hv hk
    have hcap := readCap_ge hv hn
    have hfit : linesFit (modeOf rmode) (readCap s.cfg rmode n) ([] ++ textsOf earlier) := by
      rcases rmode_cases hr with rfl | rfl | rfl
      · exact (Nat.le_add_right _ _).trans (hroom rfl)
      · exact hfits (by decide)
      · exact hfits (by decide)
    have hearlier := moreTo_afterLines hcap earlier hlines hfit
    rw [LineState.afterLines_nil] at hearlier
    have hbetween := LineState.afterLines_between (modeOf rmode) (readCap s.cfg rmode n) (textsOf earlier)
    have htextRoom : (LineState.afterLines (modeOf rmode) (readCap s.cfg rmode n) (textsOf earlier)).buf.length
        + text.length ≤ readCap s.cfg rmode n := by
      rcases rmode_cases hr with rfl | rfl | rfl
      · exact hroom rfl
      · exact (Nat.zero_add _).le.trans (by omega)
      · exact (Nat.zero_add _).le.trans (by omega)
    have hstored := moreTo_store (cfg := s.cfg) text (fun b hb => (htext b hb).2) hbetween.dropLine htextRoom
    have hexec := exec_readResponse_record hv ha hm hrx hr hn (reply_ne_escChar hlines htext hesc) hq
      (hearlier.append _ hstored) (respStep_codeLine hbetween he hk) (fun htwo => by
        subst htwo
        exact hcounts rfl)
    refine ⟨argcByte args.length, argcByte_of_lt _, hexec.trans ?_⟩
    rcases rmode_cases hr with rfl | rfl | rfl
    · have htake : (terminated (textsOf earlier)).take (terminated (textsOf earlier)).length =
          terminated (textsOf earlier) := List.take_length
      have hbuf : (LineState.afterLines (modeOf 0) (readCap s.cfg 0 n) (textsOf earlier)).buf.take
          (LineState.afterLines (modeOf 0) (readCap s.cfg 0 n) (textsOf earlier)).start =
            terminated (textsOf earlier) := htake
      rw [hbuf]
      rfl
    · rfl
    · rfl
  case right =>
    intro rmode e n bytes c name args rest s hv ha hm hrx hr hn hesc fresh hmores hdone l out count hcounts hlens hq u
    have hmore := moreTo_of_feedLine bytes fresh hmores
    have hcfg : (feedLine bytes fresh).cfg = s.cfg := by rw [feedLine_only]
    have hlast : feedLine (bytes ++ [e]) fresh = after (.respStep e) (feedLine bytes fresh) := feedLine_append _ _ _
    have hl : l = (respStep s.cfg e (feedLine bytes fresh).line).2 := by
      rw [← hcfg]
      exact congrArg State.line hlast
    have hstep : respStep s.cfg e (feedLine bytes fresh).line = (.done c name args, l) := by
      refine Prod.ext ?_ hl.symm
      rw [hlast, after_respStep, hcfg] at hdone
      simpa using hdone
    exact ⟨argcByte args.length, argcByte_of_lt _,
      exec_readResponse_record hv ha hm hrx hr hn hesc hq hmore hstep fun _ => ⟨hcounts, hlens⟩⟩

end Sys2Proof.Machine
end
